-- ==== Sys2Proof/Word.lean ====
section
/-! DEFINITION. The word types of the UX9640 and the closed sets of names that commands and state share. -/

namespace Sys2Proof

/-- A 16-bit register or memory word (conventions of 00_scope). -/
abbrev Word := BitVec 16

/-- One byte of a packet, a line or a container. -/
abbrev Byte := BitVec 8

/-- A 24-bit word address of 16-bit words (00_scope, R232). -/
abbrev Addr := BitVec 24

/-- A 40-bit accumulator (R225). -/
abbrev Acc := BitVec 40

/-- A program address; the program counter is 14 bits wide (R222). -/
abbrev PAddr := BitVec 14

/-- The seven cores: A0 to A5 run AFW, T runs TMON (R222). -/
inductive CoreId where
  | a0 | a1 | a2 | a3 | a4 | a5 | t
  deriving DecidableEq, Repr

/-- The core number of CORECFG.CORE, also the requestor number of R365 for the application cores (R227). -/
def CoreId.num : CoreId → Nat
  | .a0 => 0 | .a1 => 1 | .a2 => 2 | .a3 => 3 | .a4 => 4 | .a5 => 5 | .t => 7

/-- The position of a core in the per-core tables of the state. -/
def CoreId.idx : CoreId → Fin 7
  | .a0 => 0 | .a1 => 1 | .a2 => 2 | .a3 => 3 | .a4 => 4 | .a5 => 5 | .t => 6

/-- Core T is the Facet-12 core; the others are Facet-14 (R222). -/
def CoreId.isT : CoreId → Bool
  | .t => true
  | .a0 => false | .a1 => false | .a2 => false | .a3 => false | .a4 => false | .a5 => false

/-- The six application cores, in ascending number. -/
def CoreId.apps : List CoreId := [.a0, .a1, .a2, .a3, .a4, .a5]

/-- The two antennas (R136). -/
inductive Ant where
  | a | b
  deriving DecidableEq, Repr

/-- The three command ports that speak Mustix (15_ports). -/
inductive MPort where
  | a | b | s
  deriving DecidableEq, Repr

/-- The three UARTs: Ports A and B and the GT_RXD/GT_TXD pair of Port T (R339, R359). -/
inductive UPort where
  | a | b | t
  deriving DecidableEq, Repr

/-- The four power states (R379). -/
inductive PwrState where
  | run | doze | standby | sleep
  deriving DecidableEq, Repr

/-- The wake sources of R391; the WAKE pin acts by edge or by level. -/
inductive WakeSrc where
  | wakeEdge | uaRxd | ssCsn | ppsIn | wakeLevel
  deriving DecidableEq, Repr

/-- The levels sampled at a reset: BOOTSEL (R418), and XO_OUT tied to ground (R453). -/
structure Straps where
  bootsel : Bool
  xoGround : Bool
  deriving DecidableEq, Repr

/-- The power domains that can be off while the machine runs (R388). -/
inductive Domain where
  | pll | rxa | rxb | chan | txs | pa
  | core (n : Fin 6)
  | ledger (b : Fin 8)
  | que | ports
  deriving DecidableEq, Repr

/-- The event classes of R306. -/
inductive EvClass where
  | ready | safe | disp | alarm | cal | rpt | log
  deriving DecidableEq, Repr

/-- The calibration parts in the order of a run (R394, R403). -/
inductive CalPart where
  | adc | lna | txiq | lol | syn | padet
  deriving DecidableEq, Repr

/-- The bit of a part in CAL_CMD.PARTS and CAL_STAT.PEND (18_calibration, registers). -/
def CalPart.bit : CalPart → Nat
  | .adc => 5 | .lna => 4 | .txiq => 3 | .lol => 2 | .syn => 1 | .padet => 0

/-- The four-word masks and byte helpers used everywhere. -/
def hiByte (w : Word) : Byte := (w >>> 8).setWidth 8

/-- The low byte of a word. -/
def loByte (w : Word) : Byte := w.setWidth 8

end Sys2Proof
end

