-- ==== Sys2Proof/Syntax.lean ====
section
/-! DEFINITION. The commands of the block: one constructor of `Instr` per row of spec/opcode_table.json.
The table gives no operands; the operands here are what the row's rule makes its effect depend on: what comes
from outside (a measurement, a packet, a line's arguments) or which of several like things is meant. -/

namespace Sys2Proof

/-- A memory operand of LD, ST, LDD and STD: an addressing mode on a P register, or local direct (R234). -/
inductive MemOp where
  /-- (Pn+d); `ext` says that the displacement is widened by an EXT prefix (R250). -/
  | disp (p : BitVec 3) (d : BitVec 12) (ext : Bool)
  /-- (Pn)+ -/
  | inc (p : BitVec 3)
  /-- (Pn)− -/
  | dec (p : BitVec 3)
  /-- (Pn)+Gk -/
  | modify (p : BitVec 3) (k : BitVec 4)
  /-- Local direct @a (LD and ST on Facet-14 only). -/
  | direct (n : BitVec 12) (ext : Bool)
  deriving DecidableEq, Repr

/-- An immediate operand and whether an EXT prefix widened it (R250). -/
structure Imm where
  v : Word
  ext : Bool
  deriving DecidableEq, Repr

/-- The count of a repeat: an immediate from 1 to 64 or a G register (R240). -/
inductive RptCount where
  | imm (n : BitVec 6)
  | reg (s : BitVec 4)
  deriving DecidableEq, Repr

/-- What one antenna's AGC measured over a slot, for AGC_DECISION (R146): nothing measured, or the peak in
0.25 dBFS and whether a clip event occurred. -/
structure AgcIn where
  measured : Bool
  clip : Bool
  peak : Int
  deriving DecidableEq, Repr

/-- What was measured over the clear-channel window (R141): the mean power of each bin of the channel on either
antenna, in 0.25 dBm, and the two conditions that make the channel count as busy (R173). -/
structure Cca where
  a : List Int
  b : List Int
  stale : Bool
  blanked : Bool
  deriving DecidableEq, Repr

/-- The bin of a noise-floor measurement (R143). -/
structure BinKey where
  ant : Ant
  win : Bool
  bin : Byte
  deriving DecidableEq, Repr

/-- What one branch of a lane makes of what it hears (R150 to R155). -/
structure RxBranch where
  /-- The 24 hard-decided symbols at the place of the sync word, the first in bit 23 (R86, R87). -/
  sync : BitVec 24
  /-- The symbol SNR estimated over the sync word, in 0.5 dB (R153). -/
  snr : Int
  /-- A clip event on this antenna in the preamble or sync word (R152), and anywhere in the packet (R155). -/
  clipSync : Bool
  clip : Bool
  /-- The power over the sync word, in dBm (R153). -/
  rssi : Int
  /-- The carrier offset found by AFC, in Hz (R153). -/
  foff : Int
  /-- The outer deviation measured, in Hz, to which the slicing thresholds are scaled. -/
  outer : Nat
  /-- The deviation of each symbol after the sync word, in Hz. -/
  devs : List Int
  deriving DecidableEq, Repr

/-- What a lane hears (R150 to R155): the sync end, in 1/16 Tick from the slot start, and both branches. -/
structure RxPacket where
  syncEnd : Nat
  a : RxBranch
  b : RxBranch
  deriving DecidableEq, Repr

/-- The figures of one antenna's interleaving (R407): the worst spur in 0.1 dB, two's complement, and the largest remaining
timing error in fs. -/
structure AdcFig where
  spur : Word := 0
  skew : Word := 0
  deriving DecidableEq, Repr

/-- What the steps of a calibration row measure (R394, R407): targets by element number (R398), the steps, by part and
antenna (B = true), with a clip event on their antenna (R402), quality figures, the codes at the 8 reference voltages of the
detector table (R396), and the die temperature in 0.25 °C (R409). -/
structure CalMeas where
  targets : List (Nat × Int) := []
  clips : List (CalPart × Bool) := []
  adcA : AdcFig := {}
  adcB : AdcFig := {}
  img : Word := 0
  lol : Word := 0
  padet : List (BitVec 12) := []
  temp : BitVec 10 := 0
  deriving DecidableEq, Repr

/-- What the background estimators have found when an average is complete (R399): targets of OFS, GAIN and SKEW by element
number, and each antenna's figures. -/
structure EstMeas where
  targets : List (Nat × Int) := []
  adcA : AdcFig := {}
  adcB : AdcFig := {}
  deriving DecidableEq, Repr

/-- A deadline: a frame number or a UTC time in seconds since 2000-01-01 (R57, R290). -/
inductive Deadline where
  | frame (f : Nat)
  | utc (secs : Nat)
  deriving DecidableEq, Repr

/-- The kinds of node record word 0 [14:12] that the NODE command names (R186, R315). -/
inductive NodeKind where
  | outlet | meter | head | sensor | relay
  deriving DecidableEq, Repr

/-- The relay descriptor that a NODE command enters for a relay (R205): frequencies in units of 100 Hz, 0 = no wake
channel. -/
structure DescArgs where
  beacon : Nat
  dch : List Nat
  wake : Nat
  deriving DecidableEq, Repr

/-- The optional arguments of NODE SET and NODE CONFIG (R315). -/
structure NodeArgs where
  kind : Option NodeKind := none
  seg : Option Nat := none
  groups : Option (List Nat) := none
  p : Option Nat := none
  ph : Option Nat := none
  d : Option Nat := none
  uidx : Option Nat := none
  rho : Option Nat := none
  relay1 : Option Nat := none
  relay2 : Option Nat := none
  wake : Option Nat := none
  wcode : Option Nat := none
  pinit : Option Int := none
  /-- The relay descriptor of R205; the reference gives it no key (log entry 42). -/
  desc : Option DescArgs := none
  deriving DecidableEq, Repr

/-- The optional arguments of SEG SET (R316). -/
structure SegArgs where
  head : Option Nat := none
  parent : Option Nat := none
  share : Option Nat := none
  loss : Option Nat := none
  maxage : Option Nat := none
  usemeas : Option Nat := none
  qmin : Option Nat := none
  qmax : Option Nat := none
  meter : Option Nat := none
  deriving DecidableEq, Repr

/-- The optional arguments of LEDGER SET (R316). -/
structure LedgerArgs where
  active : Option Nat := none
  held : Option Nat := none
  share : Option Nat := none
  hyst : Option Nat := none
  ent : Option Nat := none
  deliv : Option Nat := none
  entbase : Option Nat := none
  carry : Option Nat := none
  qmin : Option Nat := none
  qmax : Option Nat := none
  deriving DecidableEq, Repr

/-- The optional arguments of LEDGER ENGINE (R192). -/
structure EngineArgs where
  enable : Option Nat := none
  startfic : Option Nat := none
  dlframes : Option Nat := none
  retries : Option Nat := none
  deriving DecidableEq, Repr

/-- Where an import block stands (R312, R317): in the ledger SRAM, or in a flash on Port M, whose words as read
come with the command. -/
inductive ImportSrc where
  | sram (src : Nat)
  | flash (sel fa : Nat) (words : List Word)
  deriving DecidableEq, Repr

/-- The target of an order (R53). -/
inductive Target where
  | unit (u : Nat)
  | grp (g : Nat)
  deriving DecidableEq, Repr

/-- The action of an order with its parameter (R54, R319). -/
inductive Action where
  | setpoint (v : Nat)
  | flow (v : Nat)
  | volume (v : Nat)
  | hold
  | close
  | safestate (v : Nat)
  | opaqueBody (port : Nat) (body : List Byte)
  deriving DecidableEq, Repr

/-- The arguments of WAKE (R322). -/
structure WakeArgs where
  unit : Option Nat := none
  wcode : Option Nat := none
  via : Option Nat := none
  slots : Option Nat := none
  after : Option Nat := none
  deriving DecidableEq, Repr

/-- A channel: window and first bin (R290, R312). -/
structure Chan where
  win : Bool
  bin : Byte
  deriving DecidableEq, Repr

/-- The optional arguments of PLAN SET (R323). Roles are the role codes of R24, classes 0 to 2. -/
structure PlanArgs where
  roles : Option (List Nat) := none
  classes : Option (List Nat) := none
  fec : Option (List Bool) := none
  bch : Option Chan := none
  dch : Option (List Chan) := none
  /-- `some none` is wch=NONE. -/
  wch : Option (Option Chan) := none
  wclass : Option Nat := none
  pwr : Option Int := none
  deriving DecidableEq, Repr

/-- The kind of a RADIO TX transmission (R325). -/
inductive TestKind where
  | cw | wake (wcode : Nat) | pkt (len : Nat)
  deriving DecidableEq, Repr

/-- The arguments of RADIO AGC (R325). -/
structure AgcArgs where
  mode : Option Nat := none
  min : Option Nat := none
  max : Option Nat := none
  fix : Option Nat := none
  deriving DecidableEq, Repr

/-- The relay keys of MODE SET (R203, R327); frequencies in Hz. -/
structure RelayArgs where
  addr : Option Nat := none
  depth : Option Nat := none
  up : Option Nat := none
  upfreq : Option Nat := none
  w0cen : Option Nat := none
  pidx : Option Nat := none
  pcount : Option Nat := none
  deriving DecidableEq, Repr

/-- The optional arguments of PORT (R328). -/
structure PortArgs where
  gen : Option Bool := none
  baud : Option Nat := none
  sub : Option (List EvClass) := none
  deriving DecidableEq, Repr

/-- The parts of STAT (R332). -/
inductive StatPart where
  | sys | orders | duty | radio | lanes
  deriving DecidableEq, Repr

/-- One command: one constructor per row of the operation table. -/
inductive Instr where
  -- clocking (01_architecture)
  | pllLossOfLock (elapsed : Nat)
  | pllRelock
  | clkOutcfgWrite (v : Word)
  | clkoutConfigApply
  -- transmit slot (02_schedule, 07_transmitter)
  | clearChannelWindowOpen (slot : BitVec 3)
  | synthLock (w0 w1 : Word)
  | commitPoint (slot : BitVec 3) (cca : Cca)
  | txRampUp (det : List (BitVec 12))
  | rampDownStart (det : List (BitVec 12))
  | txRampDownEnd (power : BitVec 10)
  | blankingEnd
  | synthUnlock (elapsed : Nat)
  | txmaxCut
  -- slot and frame
  | slotBoundary
  | agcDecision (a b : AgcIn)
  | noiseFloorUpdate (e : List (BinKey × Int))
  | frameBoundary (temp : BitVec 10) (vpa : BitVec 13) (est : EstMeas)
  | latchPoint
  | planValidationEnd
  | stepExtension
  | seqTxarmSetWrite (v : Word)
  | seqTxarmClrWrite (v : Word)
  | seqCyclenWrite (v : Word)
  | seqRotlenWrite (v : Word)
  | seqTcfgWrite (v : Word)
  | seqFramelRead (c : CoreId)
  | seqSteplRead (c : CoreId)
  -- time
  | ppsEdge (long : Bool) (stamp : BitVec 26)
  | ppsHoldover
  | upstreamBeaconReceived (m : Word) (desc : List Word)
  | upstreamBeaconMiss
  | relayOrphan
  -- link management and delivery
  | downlinkBuild
  | lanePacketAccept (lane : BitVec 7) (p : RxPacket)
  | reportReceived (desc : List Word)
  | ackReceived (desc : List Word)
  | tryOutcomePoint (ticket : Word)
  | watermarkExpiry
  | upBundleReceived (desc : List Word)
  | relayLost (relay : Word)
  | downBundleReceived (desc : List Word)
  | apportionmentPass
  | heldEngineOrderSubmit
  -- Facet instructions (10, 11)
  | fMov (c : CoreId) (d s : BitVec 4)
  | fAdd (c : CoreId) (d : BitVec 4) (a : Option (BitVec 4)) (s : BitVec 4)
  | fSub (c : CoreId) (d : BitVec 4) (a : Option (BitVec 4)) (s : BitVec 4)
  | fNeg (c : CoreId) (d s : BitVec 4)
  | fAnd (c : CoreId) (d : BitVec 4) (a : Option (BitVec 4)) (s : BitVec 4)
  | fOr (c : CoreId) (d : BitVec 4) (a : Option (BitVec 4)) (s : BitVec 4)
  | fXor (c : CoreId) (d : BitVec 4) (a : Option (BitVec 4)) (s : BitVec 4)
  | fLsh (c : CoreId) (d : BitVec 4) (a : Option (BitVec 4)) (s : BitVec 4)
  | fAsh (c : CoreId) (d : BitVec 4) (a : Option (BitVec 4)) (s : BitVec 4)
  | fClt (c : CoreId) (d : BitVec 4) (a : Option (BitVec 4)) (s : BitVec 4)
  | fCle (c : CoreId) (d : BitVec 4) (a : Option (BitVec 4)) (s : BitVec 4)
  | fCeq (c : CoreId) (d : BitVec 4) (a : Option (BitVec 4)) (s : BitVec 4)
  | fCne (c : CoreId) (d : BitVec 4) (a : Option (BitVec 4)) (s : BitVec 4)
  | fCult (c : CoreId) (d : BitVec 4) (a : Option (BitVec 4)) (s : BitVec 4)
  | fCule (c : CoreId) (d : BitVec 4) (a : Option (BitVec 4)) (s : BitVec 4)
  | fAbs (c : CoreId) (d s : BitVec 4)
  | fDiv (c : CoreId) (d : BitVec 4) (a : Option (BitVec 4)) (s : BitVec 4)
  | fDivu (c : CoreId) (d : BitVec 4) (a : Option (BitVec 4)) (s : BitVec 4)
  | fAddu (c : CoreId) (d : BitVec 4) (a : Option (BitVec 4)) (s : BitVec 4)
  | fSubu (c : CoreId) (d : BitVec 4) (a : Option (BitVec 4)) (s : BitVec 4)
  | fMvi (c : CoreId) (d : BitVec 4) (i : Imm)
  | fAddi (c : CoreId) (d : BitVec 4) (i : Imm)
  | fLshi (c : CoreId) (d : BitVec 4) (i : Imm)
  | fAshi (c : CoreId) (d : BitVec 4) (i : Imm)
  | fLd (c : CoreId) (d : BitVec 4) (m : MemOp)
  | fSt (c : CoreId) (s : BitVec 4) (m : MemOp)
  | fLdd (c : CoreId) (k : BitVec 3) (m : MemOp)
  | fStd (c : CoreId) (k : BitVec 3) (m : MemOp)
  | fMpy (c : CoreId) (u : BitVec 2) (x y : BitVec 4)
  | fMac (c : CoreId) (u : BitVec 2) (x y : BitVec 4)
  | fMpyi (c : CoreId) (u : BitVec 2) (x y : BitVec 4)
  | fMpyu (c : CoreId) (u : BitVec 2) (x y : BitVec 4)
  | fMvl (c : CoreId) (d : BitVec 4) (u : BitVec 2)
  | fMvh (c : CoreId) (d : BitVec 4) (u : BitVec 2)
  | fMvg (c : CoreId) (d : BitVec 4) (u : BitVec 2)
  | fMva (c : CoreId) (u : BitVec 2) (s : BitVec 4)
  | fAcc (c : CoreId) (u : BitVec 2) (s : BitVec 4)
  | fAccu (c : CoreId) (u : BitVec 2) (s : BitVec 4)
  | fSha (c : CoreId) (u : BitVec 2) (s : BitVec 4)
  | fMvd (c : CoreId) (k : BitVec 3) (u : BitVec 2)
  | fAdda (c : CoreId) (u m : BitVec 2)
  | fSuba (c : CoreId) (u m : BitVec 2)
  | fMvp (c : CoreId) (p : BitVec 3) (v : Addr) (exts : BitVec 2)
  | fAddp (c : CoreId) (p k : BitVec 3)
  | fMvpDk (c : CoreId) (p k : BitVec 3)
  | fMvpl (c : CoreId) (d : BitVec 4) (p : BitVec 3)
  | fMvph (c : CoreId) (d : BitVec 4) (p : BitVec 3)
  | fBz (c : CoreId) (s : BitVec 4) (off : BitVec 15) (ext : Bool)
  | fBnz (c : CoreId) (s : BitVec 4) (off : BitVec 15) (ext : Bool)
  | fB (c : CoreId) (off : BitVec 15) (ext : Bool)
  | fCall (c : CoreId) (off : BitVec 15) (ext : Bool) (slotWords : BitVec 2)
  | fRpt (c : CoreId) (n : RptCount)
  | fRpti (c : CoreId) (n : RptCount)
  | fJr (c : CoreId) (s : BitVec 4)
  | fCallr (c : CoreId) (s : BitVec 4) (slotWords : BitVec 2)
  | fNop (c : CoreId)
  | fRet (c : CoreId)
  | fReti (c : CoreId)
  | fRett (c : CoreId)
  | fTrap (c : CoreId)
  | fMvcRead (c : CoreId) (d : BitVec 4) (n : BitVec 4)
  | fMvcWrite (c : CoreId) (n : BitVec 4) (s : BitVec 4)
  | interruptEntry (c : CoreId)
  | trapEntry (c : CoreId) (cause : BitVec 4) (addr : Addr)
  | idleWake (c : CoreId)
  -- service calls (12_firmware)
  | planCommit (c : CoreId)
  | windowSet (c : CoreId)
  | wmarkSet (c : CoreId)
  | ccmOpen (c : CoreId)
  | ccmSeal (c : CoreId)
  | entrySeal (c : CoreId)
  | ackCheck (c : CoreId)
  | bkeyBody (c : CoreId)
  | bkeySwitch (c : CoreId)
  | keyImport (c : CoreId)
  | keyDelete (c : CoreId)
  | keyQuery (c : CoreId)
  | modeSet (c : CoreId)
  | modeGet (c : CoreId)
  | safeEnter (c : CoreId)
  | resetReq (c : CoreId)
  | svnCommit (c : CoreId)
  | regionWrite (c : CoreId)
  | otpSecret (c : CoreId)
  | otpKeyhash (c : CoreId)
  | radioCheck (c : CoreId)
  | slowCallReply (c : CoreId)
  | watchdogKick (c : CoreId) (v : Word)
  | watchdogExpiry
  | sysSoftWrite (c : CoreId) (v : Word)
  | sysQevselWrite (c : CoreId) (k : BitVec 3) (v : Word)
  -- queues and registers (16, 20)
  | queuePush (c : CoreId) (n : BitVec 5) (v : Word)
  | queuePop (c : CoreId) (n : BitVec 5)
  | queCfgWrite (n : BitVec 5) (v : Word)
  | queBaseWrite (n : BitVec 5) (v : Word)
  | readClear (c : CoreId) (a : Word)
  | timepPpstslRead (c : CoreId)
  | eccUaddrlRead (c : CoreId)
  | registerWrite (c : CoreId) (a : Word) (v : Word)
  | synInvalWrite (v : Word)
  | rxwAgccfgWrite (ant : Ant) (v : Word)
  | txCfgWrite (v : Word)
  | portaDivWrite (portB : Bool) (v : Word)
  -- power (17)
  | pwrCtlRun
  | pwrCtlDoze
  | pwrCtlStandby
  | pwrCtlSleep
  | standbyEntryBoundary
  | sleepEntryComplete (wakePin : Bool)
  | pwrBankoffWrite (v : Word)
  | pwrIdleWrite (c : CoreId) (v : Word)
  | domainDrainEnd (d : Domain)
  | wakeSource (w : WakeSrc) (late : Bool)
  | resumedService
  -- calibration (18)
  | calibrationSlot (m : CalMeas)
  | calibrationStep (m : CalMeas)
  | calCmdAdc
  | calCmdLna
  | calCmdTxiq
  | calCmdLol
  | calCmdSyn
  | calCmdPadet
  | calCfgWrite (v : Word)
  -- start-up and safe-hold (19)
  | powerOnReset (aonLost : Bool) (straps : Straps)
  | nreset (ns : Nat) (straps : Straps) (coreLost : Bool)
  | imageAccept (header0 header1 container : List Word)
  | powerUpCalibration (m : CalMeas)
  | ready
  | loadFrame (bytes : List Byte) (frag : Bool)
  | goFrame (bytes : List Byte) (frag : Bool)
  | safeHoldReport (cut : List MPort)
  | safeAlarmReceived (bytes : List Byte)
  -- ports (15, 13)
  | uartCharacterRx (p : UPort) (ch : Byte) (stopLow : Bool)
  | uartBreak (p : UPort)
  | lineComplete (p : MPort)
  | lineTake
  | longOperationEnd
  | eventEnqueue (cls : EvClass) (kind : String) (pairs : String)
  | alertClear (portB : Bool)
  | responseLineEnqueue
  | uaRdyUpdate
  | portsFrame (bytes : List Byte) (extraBits : BitVec 3)
  | portsTxaddWrite (v : Word)
  | portmTransferStart (c : CoreId) (v : Word)
  | portmSelectRelease (v : Word)
  | portmTransferEnd (inp : List Word)
  | nmeaSentence (text : List Byte) (clear : Bool)
  -- Mustix commands (14)
  | help (verb : Option String)
  | nodeSet (u : Nat) (a : NodeArgs)
  | nodeGet (u : Nat)
  | nodeDel (u : Nat)
  | nodeConfig (u : Nat) (dl : Deadline) (retries : Nat) (a : NodeArgs)
  | nodeImport (src : ImportSrc)
  | segSet (seg : Nat) (a : SegArgs)
  | segGet (seg : Nat)
  | segDel (seg : Nat)
  | shareSet (seg : Nat) (shares : List Nat)
  | shareShow (seg : Nat)
  | ledgerSet (u : Nat) (a : LedgerArgs)
  | ledgerGet (u : Nat)
  | ledgerEngine (a : EngineArgs)
  | ledgerImport (src : ImportSrc)
  | order (tgt : Target) (act : Action) (dl : Deadline) (retries : Nat)
  | cancel (ticket : Nat)
  | wake (a : WakeArgs)
  | planSet (a : PlanArgs)
  | planUct (start : Nat) (ch : List Chan) (n : Option Nat)
  | planCommitCommand
  | planGet (staged : Bool)
  | radioTest
  | radioEnd
  | radioTx (kind : TestKind) (ch : Chan) (cls : Nat) (pwr : Int) (cca : Cca) (lockTick : Nat) (power : BitVec 10)
      (cut : Option (Bool × Nat))
  | radioWin (win : Nat) (cen : Nat)
  | radioAgc (ant : Ant) (a : AgcArgs)
  | radioMeas (ch : Chan) (power : Bool)
  | radioSniff (on : Nat)
  | radioGet
  | regionWriteCommand (src : Nat)
  | regionGet
  | calRun (part : Option CalPart)
  | calGet
  | calCfg (tdelta : Nat)
  | power (st : PwrState) (force : Bool) (banks : Option (List Nat))
  | powerGet
  | modeSetCommand (force : Bool) (relay : Bool) (a : RelayArgs)
  | modeGetCommand
  | port (p : MPort) (a : PortArgs)
  | time
  | timeSet (utc : Nat) (frame : Option Nat)
  | timeNmea (on : Nat)
  | timePps (on : Nat)
  | timeCycle (frames : Option Nat) (rot : Option Nat)
  | gnssSend (data : List Byte)
  | gnssGet
  | keyImportCommand (blob : List Byte)
  | keyDel (entry : Nat)
  | keyGet (entry : Nat)
  | keySwitch
  | keySend (u : Nat) (dl : Deadline) (retries : Nat)
  | keySecret (data : List Byte)
  | fwWrite (off : Nat) (data : List Byte)
  | fwLoad (slot : Nat) (readback : List Word)
  | fwVerify (slot : Nat) (words : List Word)
  | fwGet
  | fwKeyhash
  | fwCommit
  | stat (part : StatPart)
  | log (fromSeq : Option Nat) (count : Option Nat)
  | peek (addr : Nat) (count : Option Nat)
  | poke (addr : Nat) (data : List Word)
  | safe
  | safeEnterCommand
  | reset
  -- completions
  | apportionmentPassComplete
  | badcall (c : CoreId)
  | dupRing (c : CoreId)
  | uartCharacterTx (p : UPort)
  | domainWakeComplete (d : Domain)
  deriving DecidableEq, Repr

end Sys2Proof
end

