-- ==== Sys2Proof/WellFormed.lean ====
section
/-! DEFINITION. Which commands can be given at all: a Facet instruction names only registers and immediates that its
core's width can encode (R222, R248 to R251, R263). Every other command is well formed; what its operands lead to is
the command's own business. -/

namespace Sys2Proof

/-- A general register of the width (R222). -/
def okG (c : CoreId) (r : BitVec 4) : Bool := !c.isT || decide (r.toNat < 8)

/-- A register of a g field that names G0 to G7 on both widths (R248). -/
def okLow (r : BitVec 4) : Bool := decide (r.toNat < 8)

/-- A register of the MUL and MVC fields: G0 to G7, on Facet-12 G0 to G3 (R248). -/
def okMul (c : CoreId) (r : BitVec 4) : Bool := decide (r.toNat < if c.isT then 4 else 8)

def okP (c : CoreId) (p : BitVec 3) : Bool := !c.isT || decide (p.toNat < 4)

def okAc (c : CoreId) (u : BitVec 2) : Bool := !c.isT || decide (u.toNat < 2)

/-- A double-word pair: k from 1 to 7, on Facet-12 to 3. A k of 0 is an undefined encoding (R248) that can be written;
it traps and is therefore allowed here. -/
def okD (c : CoreId) (k : BitVec 3) : Bool := !c.isT || decide (k.toNat < 4)

/-- A signed value of n bits. -/
def fitsS (n : Nat) (v : Int) : Bool := decide (-(2 ^ (n - 1) : Int) ≤ v) && decide (v < (2 ^ (n - 1) : Int))

/-- MVI (R250, R252): 6 or 16 bits, on Facet-12 5 or 13. -/
def okMvi (c : CoreId) (i : Imm) : Bool :=
  if c.isT then fitsS (if i.ext then 13 else 5) i.v.toInt else fitsS (if i.ext then 16 else 6) i.v.toInt

/-- ADDI (R250): 4 or 14 bits, on Facet-12 4 or 12. -/
def okAddi (c : CoreId) (i : Imm) : Bool :=
  fitsS (if i.ext then (if c.isT then 12 else 14) else 4) i.v.toInt

/-- LSHI and ASHI (R250): 4 or 8 bits. -/
def okShi (i : Imm) : Bool := fitsS (if i.ext then 8 else 4) i.v.toInt

/-- Memory operands (R249, R250). LDD and STD have no local direct form. -/
def okMem (c : CoreId) (pair : Bool) : MemOp → Bool
  | .disp p d ext =>
    okP c p && decide (d.toNat < if ext then (if c.isT then 1024 else 4096) else (if c.isT then 4 else 8))
  | .inc p => okP c p
  | .dec p => okP c p
  | .modify p k => okP c p && decide (k.toNat < 8) && decide ((if c.isT then 6 else 2) ≤ k.toNat)
  | .direct n ext => !c.isT && !pair && decide (n.toNat < if ext then 4096 else 64)

/-- Branch offsets (R250, R260): 5 or 15 bits, on Facet-12 4 or 12. -/
def okOff (c : CoreId) (off : BitVec 15) (ext : Bool) : Bool :=
  fitsS (if ext then (if c.isT then 12 else 15) else (if c.isT then 4 else 5)) off.toInt

/-- MVP with an immediate (R250, R251, R259). -/
def okMvp (c : CoreId) (v : Addr) (exts : BitVec 2) : Bool :=
  if exts = 0 then decide (v.toNat < 16)
  else if exts = 1 then decide (v.toNat < if c.isT then 4096 else 16384)
  else decide (exts = 2) && !c.isT

/-- Length of a delay slot: 1 to 3 words, on Facet-12 at most 2 (R250, R251). -/
def okSlot (c : CoreId) (n : BitVec 2) : Bool := decide (1 ≤ n.toNat) && decide (n.toNat ≤ if c.isT then 2 else 3)

/-- The registers of an ALU or ALX word; a first source of its own needs an EXT prefix (R250). -/
def okAlu (c : CoreId) (d : BitVec 4) (a : Option (BitVec 4)) (s : BitVec 4) : Bool :=
  okG c d && okG c s && (match a with | some r => okG c r | none => true)

/-- Is the command one that can be given? -/
def Instr.wf (i : Instr) : Bool :=
  match i with
  | .fMov c d s => okG c d && okG c s
  | .fNeg c d s => okG c d && okG c s
  | .fAbs c d s => okG c d && okG c s
  | .fAdd c d a s => okAlu c d a s
  | .fSub c d a s => okAlu c d a s
  | .fAnd c d a s => okAlu c d a s
  | .fOr c d a s => okAlu c d a s
  | .fXor c d a s => okAlu c d a s
  | .fLsh c d a s => okAlu c d a s
  | .fAsh c d a s => okAlu c d a s
  | .fClt c d a s => okAlu c d a s
  | .fCle c d a s => okAlu c d a s
  | .fCeq c d a s => okAlu c d a s
  | .fCne c d a s => okAlu c d a s
  | .fCult c d a s => okAlu c d a s
  | .fCule c d a s => okAlu c d a s
  | .fDiv c d a s => okAlu c d a s
  | .fDivu c d a s => okAlu c d a s
  | .fAddu c d a s => okAlu c d a s
  | .fSubu c d a s => okAlu c d a s
  | .fMvi c d i => okG c d && okMvi c i
  | .fAddi c d i => okG c d && okAddi c i
  | .fLshi _ d i => okLow d && okShi i
  | .fAshi _ d i => okLow d && okShi i
  | .fLd c d m => okLow d && okMem c false m
  | .fSt c s m => okLow s && okMem c false m
  | .fLdd c k m => okD c k && okMem c true m
  | .fStd c k m => okD c k && okMem c true m
  | .fMpy c u x y => okAc c u && okMul c x && okMul c y
  | .fMac c u x y => okAc c u && okMul c x && okMul c y
  | .fMpyi c u x y => okAc c u && okMul c x && okMul c y
  | .fMpyu c u x y => okAc c u && okMul c x && okMul c y
  | .fMvl c d u => okG c d && okAc c u
  | .fMvh c d u => okG c d && okAc c u
  | .fMvg c d u => okG c d && okAc c u
  | .fMva c u s => okAc c u && okG c s
  | .fAcc c u s => okAc c u && okG c s
  | .fAccu c u s => okAc c u && okG c s
  | .fSha c u s => okAc c u && okG c s
  | .fMvd c k u => okD c k && okAc c u
  | .fAdda c u m => okAc c u && okAc c m
  | .fSuba c u m => okAc c u && okAc c m
  | .fMvp c p v exts => okP c p && okMvp c v exts
  | .fAddp c p k => okP c p && okD c k
  | .fMvpDk c p k => okP c p && okD c k
  | .fMvpl c d p => okG c d && okP c p
  | .fMvph c d p => okG c d && okP c p
  | .fBz c s off ext => okG c s && decide (s ≠ 0) && okOff c off ext
  | .fBnz c s off ext => okG c s && decide (s ≠ 0) && okOff c off ext
  | .fB c off ext => okOff c off ext
  | .fCall c off ext n => okOff c off ext && okSlot c n
  | .fRpt c n => (match n with | .imm _ => true | .reg s => okG c s)
  | .fRpti c n => (match n with | .imm _ => true | .reg s => okG c s)
  | .fJr c s => okG c s
  | .fCallr c s n => okG c s && okSlot c n
  | .fMvcRead c d _ => okMul c d
  | .fMvcWrite c _ s => okMul c s
  | .calibrationSlot m => m.padet.length == 8
  | .calibrationStep m => m.padet.length == 8
  | .powerUpCalibration m => m.padet.length == 8
  | _ => true

end Sys2Proof
end

