-- ==== Sys2Proof/Decode.lean ====
section
/-! DEFINITION. The operation table gives its rows no bits, so no word spells a command (log entry 12). The words of the
Facet cores do spell instructions: their formats are those of R248 to R251, R259 to R263. -/

namespace Sys2Proof

/-- The command that a word spells by the table's bits: none, since no row of the table gives bits. -/
def decodeTableWord (nbits w : Nat) : Option Instr :=
  match nbits, w with
  | _, _ => none

/-! ### Facet words (R248) -/

/-- Bits hi to lo of a word. -/
def wordBits (w hi lo : Nat) : Nat := w / 2 ^ lo % 2 ^ (hi + 1 - lo)

/-- An n-bit field sign-extended to m bits. -/
def fieldS (n m v : Nat) : BitVec m := (BitVec.ofNat n v).signExtend m

/-- An instruction's word with the payloads of its EXT words, first one first, and the words that follow it. -/
structure FacetWord where
  t : Bool
  exts : List Nat
  w : Nat
  rest : List Nat
  deriving DecidableEq, Repr

/-- Bits of an EXT payload (R250). -/
def FacetWord.payBits (f : FacetWord) : Nat := if f.t then 8 else 10

/-- A format that takes no EXT prefix. -/
def FacetWord.plain (f : FacetWord) (i : Instr) : Option Instr := if f.exts = [] then some i else none

/-- An immediate of n bits, widened by one payload to at most `wide` bits (R250). -/
def FacetWord.imm (f : FacetWord) (n wide i : Nat) : Option Imm :=
  match f.exts with
  | [] => some ⟨fieldS n 16 i, false⟩
  | [p] => if p * 2 ^ n < 2 ^ wide then some ⟨fieldS wide 16 (p * 2 ^ n + i), true⟩ else none
  | _ => none

/-- The first source of an ALU or ALX word (R250). -/
def FacetWord.first (f : FacetWord) : Option (Option (BitVec 4)) :=
  match f.exts with
  | [] => some none
  | [p] => if p < (if f.t then 8 else 16) then some (some (BitVec.ofNat 4 p)) else none
  | _ => none

/-- ALU (R252). -/
def FacetWord.alu (f : FacetWord) (c : CoreId) (o : Nat) (d s : BitVec 4) : Option Instr :=
  match o with
  | 0x0 => f.plain (.fMov c d s)
  | 0x1 => f.first.map (fun a => .fAdd c d a s)
  | 0x2 => f.first.map (fun a => .fSub c d a s)
  | 0x3 => f.plain (.fNeg c d s)
  | 0x4 => f.first.map (fun a => .fAnd c d a s)
  | 0x5 => f.first.map (fun a => .fOr c d a s)
  | 0x6 => f.first.map (fun a => .fXor c d a s)
  | 0x7 => f.first.map (fun a => .fLsh c d a s)
  | 0x8 => f.first.map (fun a => .fAsh c d a s)
  | 0x9 => f.first.map (fun a => .fClt c d a s)
  | 0xA => f.first.map (fun a => .fCle c d a s)
  | 0xB => f.first.map (fun a => .fCeq c d a s)
  | 0xC => f.first.map (fun a => .fCne c d a s)
  | 0xD => f.first.map (fun a => .fCult c d a s)
  | 0xE => f.first.map (fun a => .fCule c d a s)
  | _ => f.plain (.fAbs c d s)

/-- ALX (R252). -/
def FacetWord.alx (f : FacetWord) (c : CoreId) (o : Nat) (d s : BitVec 4) : Option Instr :=
  f.first.map (fun a => match o with
    | 0 => .fDiv c d a s | 1 => .fDivu c d a s | 2 => .fAddu c d a s | _ => .fSubu c d a s)

/-- The mode field (R249, R250). -/
def FacetWord.mode (f : FacetWord) (p : BitVec 3) (m : Nat) : Option MemOp :=
  let disps := if f.t then 4 else 8
  if m < disps then
    (match f.exts with
    | [] => some (.disp p (BitVec.ofNat 12 m) false)
    | [x] => if x < (if f.t then 256 else 512) then some (.disp p (BitVec.ofNat 12 (x * disps + m)) true) else none
    | _ => none)
  else if f.exts ≠ [] then none
  else if m = disps then some (.inc p)
  else if m = disps + 1 then some (.dec p)
  else some (.modify p (BitVec.ofNat 4 (if f.t then m else m - 8)))

/-- MEM and MEMD (R248). -/
def FacetWord.mem (f : FacetWord) (c : CoreId) (pair store : Bool) (r p m : Nat) : Option Instr :=
  (f.mode (BitVec.ofNat 3 p) m).map (fun o =>
    if pair then (if store then .fStd c (BitVec.ofNat 3 r) o else .fLdd c (BitVec.ofNat 3 r) o)
    else if store then .fSt c (BitVec.ofNat 4 r) o else .fLd c (BitVec.ofNat 4 r) o)

/-- LOC (R249, R250). -/
def FacetWord.loc (f : FacetWord) (c : CoreId) (store : Bool) (r n : Nat) : Option Instr :=
  let a : Option MemOp := match f.exts with
    | [] => some (.direct (BitVec.ofNat 12 n) false)
    | [p] => if p < 64 then some (.direct (BitVec.ofNat 12 (p * 64 + n)) true) else none
    | _ => none
  a.map (fun o => if store then .fSt c (BitVec.ofNat 4 r) o else .fLd c (BitVec.ofNat 4 r) o)

/-- MUL (R255). -/
def FacetWord.mul (f : FacetWord) (c : CoreId) (o : Nat) (u : BitVec 2) (x y : BitVec 4) : Option Instr :=
  f.plain (match o with | 0 => .fMpy c u x y | 1 => .fMac c u x y | 2 => .fMpyi c u x y | _ => .fMpyu c u x y)

/-- ACC (R256): the operand field holds a G register, or what o = 7 selects. -/
def FacetWord.acc (f : FacetWord) (c : CoreId) (o : Nat) (u : BitVec 2) (s : Nat) : Option Instr :=
  let r : BitVec 4 := BitVec.ofNat 4 s
  let hi := if f.t then 4 else 8
  f.plain (match o with
    | 0 => .fMvl c r u | 1 => .fMvh c r u | 2 => .fMvg c r u | 3 => .fMva c u r | 4 => .fAcc c u r | 5 => .fAccu c u r
    | 6 => .fSha c u r
    | _ =>
      if s < hi then .fMvd c (BitVec.ofNat 3 s) u
      else
        let m : BitVec 2 := BitVec.ofNat 2 (s % (hi / 2))
        if s % hi < hi / 2 then .fAdda c u m else .fSuba c u m)

/-- PREG (R250, R251, R259). -/
def FacetWord.preg (f : FacetWord) (c : CoreId) (o p s : Nat) : Option Instr :=
  let q : BitVec 3 := BitVec.ofNat 3 p
  let k : BitVec 3 := BitVec.ofNat 3 (s % 8)
  match o with
  | 0 => (match f.exts with
    | [] => some (.fMvp c q (BitVec.ofNat 24 s) 0)
    | [a] => some (.fMvp c q (BitVec.ofNat 24 (a * 16 + s)) 1)
    | [a, b] => if f.t then none else some (.fMvp c q (BitVec.ofNat 24 ((a * 1024 + b) * 16 + s)) 2)
    | _ => none)
  | 1 => if f.t ∧ 4 ≤ s % 8 then none else f.plain (if s < 8 then .fAddp c q k else .fMvpDk c q k)
  | 2 => if f.t ∧ 8 ≤ s then none else f.plain (.fMvpl c (BitVec.ofNat 4 s) q)
  | _ => if f.t ∧ 8 ≤ s then none else f.plain (.fMvph c (BitVec.ofNat 4 s) q)

/-- Is a word an EXT prefix, and its payload (R248). -/
def extPayload (t : Bool) (w : Nat) : Option Nat :=
  if t then (if wordBits w 11 8 = 0xA then some (w % 256) else none)
  else if wordBits w 13 10 = 0xE then some (w % 1024) else none

/-- Words of the delay slot that follows: an EXT-prefixed instruction is one instruction (R235, R250, R251). -/
def FacetWord.slot (f : FacetWord) : BitVec 2 :=
  match f.rest with
  | a :: b :: _ =>
    if (extPayload f.t a).isNone then 1 else if f.t || (extPayload f.t b).isNone then 2 else 3
  | _ => 1

/-- BR (R250, R260). -/
def FacetWord.br (f : FacetWord) (c : CoreId) (b : Bool) (s : BitVec 4) (i : Nat) : Option Instr :=
  let n := if f.t then 4 else 5
  let off : Option (BitVec 15 × Bool) := match f.exts with
    | [] => some (fieldS n 15 i, false)
    | [p] => some (fieldS (n + f.payBits) 15 (p * 2 ^ n + i), true)
    | _ => none
  off.map (fun x =>
    if s = 0 then (if b then .fCall c x.1 x.2 f.slot else .fB c x.1 x.2)
    else if b then .fBnz c s x.1 x.2 else .fBz c s x.1 x.2)

/-- RGX (R260). -/
def FacetWord.rgx (f : FacetWord) (c : CoreId) (o : Nat) (s : BitVec 4) : Option Instr :=
  f.plain (match o with | 0 => .fRpt c (.reg s) | 1 => .fRpti c (.reg s) | 2 => .fJr c s | _ => .fCallr c s f.slot)

/-- SGL (R260): codes 0x04 to 0x3E are reserved. -/
def FacetWord.sgl (f : FacetWord) (c : CoreId) (o : Nat) : Option Instr :=
  match o with
  | 0x00 => f.plain (.fNop c) | 0x01 => f.plain (.fRet c) | 0x02 => f.plain (.fReti c) | 0x03 => f.plain (.fRett c)
  | 0x3F => f.plain (.fTrap c)
  | _ => none

/-- A Facet-14 word (R248). -/
def FacetWord.wide (f : FacetWord) (c : CoreId) : Option Instr :=
  let b (hi lo : Nat) : Nat := wordBits f.w hi lo
  let g (hi lo : Nat) : BitVec 4 := BitVec.ofNat 4 (b hi lo)
  let u (hi lo : Nat) : BitVec 2 := BitVec.ofNat 2 (b hi lo)
  if b 13 12 = 0 then f.alu c (b 11 8) (g 7 4) (g 3 0)
  else if b 13 11 = 2 then f.mem c false (b 10 10 == 1) (b 9 7) (b 6 4) (b 3 0)
  else if b 13 11 = 3 then f.mem c true (b 10 10 == 1) (b 9 7) (b 6 4) (b 3 0)
  else if b 13 10 = 8 then f.loc c (b 9 9 == 1) (b 8 6) (b 5 0)
  else if b 13 10 = 9 then (f.imm 6 16 (b 5 0)).map (.fMvi c (g 9 6))
  else if b 13 10 = 10 then f.mul c (b 9 8) (u 7 6) (g 5 3) (g 2 0)
  else if b 13 10 = 11 then f.alx c (b 9 8) (g 7 4) (g 3 0)
  else if b 13 10 = 12 then f.br c (b 9 9 == 1) (g 8 5) (b 4 0)
  else if b 13 8 = 52 then (f.imm 4 14 (b 3 0)).map (.fAddi c (g 7 4))
  else if b 13 8 = 53 then (f.imm 4 8 (b 3 0)).map (if b 7 7 = 1 then .fAshi c (g 6 4) else .fLshi c (g 6 4))
  else if b 13 9 = 27 then f.acc c (b 8 6) (u 5 4) (b 3 0)
  else if b 13 9 = 30 then f.preg c (b 8 7) (b 6 4) (b 3 0)
  else if b 13 8 = 62 then f.plain (if b 7 7 = 1 then .fMvcWrite c (g 6 3) (g 2 0) else .fMvcRead c (g 2 0) (g 6 3))
  else if b 13 7 = 126 then
    f.plain (if b 6 6 = 1 then .fRpti c (.imm (BitVec.ofNat 6 (b 5 0))) else .fRpt c (.imm (BitVec.ofNat 6 (b 5 0))))
  else if b 13 6 = 254 then f.rgx c (b 5 4) (g 3 0)
  else if b 13 6 = 255 then f.sgl c (b 5 0)
  else none

/-- A Facet-12 word (R248). -/
def FacetWord.narrow (f : FacetWord) (c : CoreId) : Option Instr :=
  let b (hi lo : Nat) : Nat := wordBits f.w hi lo
  let g (hi lo : Nat) : BitVec 4 := BitVec.ofNat 4 (b hi lo)
  let u (hi lo : Nat) : BitVec 2 := BitVec.ofNat 2 (b hi lo)
  if b 11 10 = 0 then f.alu c (b 9 6) (g 5 3) (g 2 0)
  else if b 11 9 = 2 then f.mem c false (b 8 8 == 1) (b 7 5) (b 4 3) (b 2 0)
  else if b 11 8 = 6 then f.mem c true (b 7 7 == 1) (b 6 5) (b 4 3) (b 2 0)
  else if b 11 8 = 7 then (f.imm 5 13 (b 4 0)).map (.fMvi c (g 7 5))
  else if b 11 8 = 8 then f.alx c (b 7 6) (g 5 3) (g 2 0)
  else if b 11 8 = 9 then f.br c (b 7 7 == 1) (g 6 4) (b 3 0)
  else if b 11 8 = 11 then f.preg c (b 7 6) (b 5 4) (b 3 0)
  else if b 11 7 = 24 then (f.imm 4 12 (b 3 0)).map (.fAddi c (g 6 4))
  else if b 11 7 = 25 then f.acc c (b 6 4) (u 3 3) (b 2 0)
  else if b 11 8 = 13 then (f.imm 4 8 (b 3 0)).map (if b 7 7 = 1 then .fAshi c (g 6 4) else .fLshi c (g 6 4))
  else if b 11 7 = 28 then f.mul c (b 6 5) (u 4 4) (g 3 2) (g 1 0)
  else if b 11 7 = 29 then f.plain (if b 6 6 = 1 then .fMvcWrite c (g 5 2) (g 1 0) else .fMvcRead c (g 1 0) (g 5 2))
  else if b 11 7 = 30 then
    f.plain (if b 6 6 = 1 then .fRpti c (.imm (BitVec.ofNat 6 (b 5 0))) else .fRpt c (.imm (BitVec.ofNat 6 (b 5 0))))
  else if b 11 6 = 62 then (if b 3 3 = 1 then none else f.rgx c (b 5 4) (g 2 0))
  else if b 11 6 = 63 then f.sgl c (b 5 0)
  else none

def FacetWord.decode (f : FacetWord) (c : CoreId) : Option Instr := if f.t then f.narrow c else f.wide c

/-- The instruction of core c that begins with the first of the words: with its EXT words, of which there are at most
two, and the length of a call's delay slot. None is an undefined encoding (R248, R250, R251, R263). -/
def decodeFacet (c : CoreId) (ws : List Nat) : Option Instr :=
  match ws with
  | [] => none
  | a :: r =>
    match extPayload c.isT a, r with
    | none, _ => FacetWord.decode ⟨c.isT, [], a, r⟩ c
    | some _, [] => none
    | some p, b :: q =>
      match extPayload c.isT b, q with
      | none, _ => FacetWord.decode ⟨c.isT, [p], b, q⟩ c
      | some _, [] => none
      | some p', d :: q' =>
        if (extPayload c.isT d).isSome then none else FacetWord.decode ⟨c.isT, [p, p'], d, q'⟩ c

end Sys2Proof
end

