-- ==== Sys2Proof/Config.lean ====
section
/-! DEFINITION. What the implementation fixes, and the free values: constants without a body, one for each kind of
value that the manual leaves open. Nothing can be proved about what they are. -/

namespace Sys2Proof.Config

/-- A 16-bit value the manual leaves open, the n-th that the machine asked for (log entry 2). -/
opaque freeWord : Nat → Word

/-- A 24-bit value the manual leaves open (log entry 2). -/
opaque freeAddr : Nat → Addr

/-- What word `a` of a bank reads as after the n-th event that left the bank undefined (R411, log entry 3). -/
opaque undefWord : Nat → Nat → Word

/-- What word `a` of the reservation map and of the event log ring reads as after the n-th change of these areas (R183, log
entry 4). -/
opaque privateWord : Nat → Nat → Word

/-- Words of a packet buffer beyond the last byte (R156, log entry 5): the n-th packet stored, and the word. -/
opaque padWord : Nat → Nat → Word

/-- Mean power of a bin over its last 25 samples, as RXW_MDATA.LEVEL (R144, log entry 6): the n-th measurement. -/
opaque binPower : Nat → BitVec 10

/-- The mean power of a bin that is held while its chain is under calibration (R406, log entry 40): the Tick in which the
hold began, and the value of RXW_MSEL. -/
opaque heldPower : Nat → Word → BitVec 10

/-- What a lane's RSSI field repeats under calibration before the lane's first packet (R153, log entry 40). -/
opaque heldRssi : Nat → Byte

/-- Bit i of the Viterbi decoder's answer to symbols that are no code word (R93, log entry 66). -/
opaque viterbi : List Int → Nat → Bool

/-- The PA setting for a power in 0.25 dB, a die temperature and VDD_PA (R168, log entry 67). -/
opaque paSetting : Int → BitVec 10 → BitVec 13 → Word

/-- The PA_VCTL code with which a range's first transmission starts (R169, log entry 67). -/
opaque vctlStart : Nat → BitVec 12

/-- The trim steps taken after a preamble symbol, beyond a multiple of 65 (R169, log entry 67). -/
opaque vctlTrim : Nat → Nat

/-- The power in 0.25 dB of a detector code between the points of the detector table (R169, log entry 67). -/
opaque detLevel : List (BitVec 12) → BitVec 12 → Int

/-- The RESV index of an order's reservations in the private map (R201, log entry 7). -/
opaque resvIndex : Word → Nat

/-- The reason word of a REJECTED reply (R270): the manual gives no codes; the argument numbers the ground. -/
opaque reason : Nat → Word

/-- Addresses of the packets of the shipped AFW's own plan, among its tables (R183, log entry 8): slot number. -/
def txBuffer (slot : Nat) : Nat := 0x389000 + 128 * slot

/-- The address at which the shipped AFW builds its frame plans (R183, log entry 8). -/
def planAddr : Nat := 0x388000

/-- The shipped image: CORES names all six cores, WDTICKS is 4,800 (12_firmware). -/
def shippedWdTicks : Word := 4800

/-- Length of a Tick in reference periods (R9): 38.4 MHz / 9,600. -/
def refPerTick : Nat := 4000

/-- Ticks in a slot and in a frame (00_scope). -/
def slotTicks : Nat := 1200
def frameTicks : Nat := 9600

end Sys2Proof.Config
end

