-- ==== Sys2Proof/Machine/State.lean ====
section
/-! DEFINITION. The state of the UX9640 as plain data: every register, store, queue, mode and pin the spec names,
what the shipped AFW and TMON keep, and the queue of waiting commands. -/

namespace Sys2Proof.Machine

open Sys2Proof

/-- A sparse word memory in canonical form: (address, word) pairs, addresses strictly rising, no entry equal to what
an unlisted address reads as. The chip is word-addressed (R232), so a cell holds a 16-bit word. -/
abbrev Memory := List (Nat × Word)

/-- The canonical form, given what an unlisted address reads as. -/
def Memory.wf (dflt : Nat → Word) : Memory → Bool
  | [] => true
  | [(a, w)] => w != dflt a
  | (a, w) :: (b, v) :: rest => (w != dflt a) && decide (a < b) && Memory.wf dflt ((b, v) :: rest)

/-- The clock tree (R13, R14). `outCfg` is CLK_OUTCFG as stored, `outAct` the setting in force (R16). -/
structure Clk where
  lock : Bool := false
  lol : Bool := false
  /-- The Tick source selected: false the PLL, true the reference ÷ 4,000. -/
  ticksrc : Bool := false
  /-- The Tick in which the source was last selected anew, by frame and Tick, and the source that drives the Tick to its
  end: the divider moves at the next Tick edge (R11, R12). -/
  tickAt : Option (Nat × Nat) := none
  tickWas : Bool := false
  xordy : Bool := false
  /-- TCXO mode: XO_OUT was tied to ground at the last start of the reference (R453). -/
  tcxo : Bool := false
  outCfg : Word := 0x0001
  outAct : Word := 0x0001
  /-- The Tick in which the frame pulse was switched onto CLKOUT: the pulse begins at a later frame boundary (R16). -/
  outAt : Option (Nat × Nat) := none
  /-- Receive waits for the slot boundary after a relock (R12). -/
  rxHold : Bool := false
  deriving DecidableEq, Repr

/-- The outcome codes of the transmit result entry (R175). -/
inductive TxOutcome where
  | sent | synlate | gated | blocked | late | cutOff
  deriving DecidableEq, Repr

/-- How far a committed transmission has come (R160). -/
inductive TxPhase where
  | committed | onAir | rampDown
  deriving DecidableEq, Repr

/-- A committed transmission: everything fixed at the commit point (R22). -/
structure Tx where
  slot : BitVec 3
  frame : BitVec 32
  range : Nat
  /-- The range index if a range contains the channel (R172). -/
  inRange : Bool
  tag : Word
  pwr : Word
  fec : Bool
  cls : Nat
  /-- The bytes sent, header to frame CRC (R459); empty for a W run. -/
  bytes : List Byte
  /-- Number of slots of a W run, 0 for a packet (R31). -/
  wrun : Nat
  /-- The wake code of a W run (R99). -/
  wcode : BitVec 12
  /-- On-air time T charged at the commit point (R171, R174). -/
  onair : Nat
  /-- Position within the slot of the first preamble symbol, in Ticks. -/
  start : Nat
  /-- Carrier centre in units of 50 Hz (R163). -/
  carrier : Nat
  /-- Die temperature and VDD_PA taken at the commit point, and the PA setting held for the transmission (R168). -/
  temp : BitVec 10
  vpa : BitVec 13
  paSet : Word
  phase : TxPhase
  /-- The actual on-air time of a transmission that was cut (R174). -/
  cutAt : Option Nat
  /-- The ramp-up has begun. -/
  up : Bool := false
  deriving DecidableEq, Repr

/-- A committed frame plan that is not yet latched (R39 to R41). -/
structure PlanPend where
  plan : Memory
  addr : Addr
  /-- The core whose PLAN_COMMIT call this is; none for a plan that the shipped AFW's own command built. -/
  caller : Option CoreId
  validated : Bool
  /-- The plan of a PLAN COMMIT command, whose final line waits for it (R324). -/
  forCmd : Bool
  /-- Of a plan that AFW lays over its base plan for one frame (R220, R322): the base plan that stands behind it. -/
  base : Option Memory := none
  deriving DecidableEq, Repr

/-- The open clear-channel window: its slot and the carrier centre taken at Tick −67 (R160, R163). -/
structure CcaOpen where
  slot : BitVec 3
  carrier : Nat
  idx : BitVec 9
  deriving DecidableEq, Repr

/-- The slot sequencer (02_schedule; R213 for the relay registers). -/
structure Seq where
  frame : BitVec 32 := 0
  fic : Word := 0
  cir : Word := 0
  rot : Word := 0
  tick : Nat := 0
  slot : BitVec 3 := 0
  arm : BitVec 8 := 0
  armBlock : Bool := false
  stopped : Bool := false
  entrySlot : Option (BitVec 3) := none
  cycLen : BitVec 12 := 900
  rotLen : BitVec 10 := 672
  cycPend : Option (BitVec 12) := none
  rotPend : Option (BitVec 10) := none
  cur : Option Memory := none
  next : Option Memory := none
  pend : Option PlanPend := none
  planRej : Bool := false
  rejInCycle : Nat := 0
  ppsen : Bool := false
  ppsenAct : Bool := false
  ppsLock : Bool := false
  holdover : Bool := false
  ppsRun : Nat := 0
  ppsMiss : Nat := 0
  /-- Absolute time of the last frame boundary, in reference periods, for the interval test of R46. -/
  absRef : Nat := 0
  lastPps : Option Nat := none
  /-- Correction of this frame's last Tick, and the one measured for the next frame (R46). -/
  corr : Int := 0
  corrNext : Int := 0
  corrHist : List Int := []
  step : BitVec 32 := 0
  stepPend : Bool := false
  stepFrame : Option (BitVec 32) := none
  /-- Ticks by which a step that has been carried out lengthens the current frame (R48). -/
  extra : Nat := 0
  rstate : BitVec 2 := 0
  orphan : Bool := false
  /-- The frame of the beacon that ended ORPHAN; the relay's SAFE follows R131 from the next one (R214). -/
  backFrame : Option (BitVec 32) := none
  safeUp : Bool := false
  miss : BitVec 8 := 0
  roffs : Word := 0
  hold : Nat := 0
  tx : Option Tx := none
  cca : Option CcaOpen := none
  testState : Bool := false
  testEnd : Bool := false
  /-- The two 128-word buffers of the safe plan inside the plan store (R425): 0 to 127 transmit, 128 to 255 lane 0. -/
  safeBuf : Memory := []
  deriving DecidableEq, Repr

/-- The snapshot registers of one requestor (R51, R378). -/
structure Snap where
  frameh : Word := 0
  fic : Word := 0
  cir : Word := 0
  rot : Word := 0
  steph : Word := 0
  ppsTsh : Word := 0
  uaddrh : Word := 0
  deriving DecidableEq, Repr

/-- One AGC gain state (R145, R146). -/
structure GainState where
  code : BitVec 4 := 11
  low : Nat := 0
  decided : Bool := false
  deriving DecidableEq, Repr

/-- A noise floor estimate that has left its seed (R143). -/
structure NoiseFloor where
  key : BinKey
  level : Int
  updates : Nat
  deriving DecidableEq, Repr

/-- The receiver's windows, AGC and measurements (06_receiver). `agc*` are stored, `agcAct*` in force. -/
structure Rxw where
  cen0 : Addr := 0
  cen1 : Addr := 0
  cenAct0 : Addr := 0
  cenAct1 : Addr := 0
  cenChg0 : Bool := false
  cenChg1 : Bool := false
  agcA : Word := 0x3C2C
  agcB : Word := 0x3C2C
  agcActA : Word := 0x3C2C
  agcActB : Word := 0x3C2C
  gainA : BitVec 4 := 11
  gainB : BitVec 4 := 11
  statesA : Vector GainState 9 := Vector.replicate 9 ⟨11, 0, false⟩
  statesB : Vector GainState 9 := Vector.replicate 9 ⟨11, 0, false⟩
  clipA : Bool := false
  clipB : Bool := false
  slotClipA : Bool := false
  slotClipB : Bool := false
  slotStaleA : Bool := false
  slotStaleB : Bool := false
  /-- The gain code of this slot is still its seed (R145, R155). -/
  slotNewA : Bool := true
  slotNewB : Bool := true
  /-- A blanking span stood at the start of this slot and has not ended (R146, R148). -/
  blankAll : Bool := false
  /-- The Tick within this slot at which a blanking span ended (R148). -/
  blankEnd : Nat := 0
  msel : Word := 0
  nf : List NoiseFloor := []
  deriving DecidableEq, Repr

/-- The lanes (R150 to R157). `cfg`, `bufq`, `filt`, `own` are stored, the `Act` fields in force (R435). -/
structure Lane where
  cfg : Memory := []
  cfgAct : Memory := []
  bufq : Word := 0
  bufqAct : Word := 0
  filt : Word := 0
  filtAct : Word := 0
  own : Word := 0
  ownAct : Word := 0
  dropc : Word := 0
  hdrc : Word := 0
  filtc : Word := 0
  /-- Lanes whose previous packet chose antenna B (R152). -/
  lastB : List Nat := []
  /-- Acceptance windows of this slot in which a lane has received its packet: lane and SUB (R151). -/
  taken : List (Nat × Nat) := []
  /-- Each lane's last RSSI values that were not held (R153). -/
  lastRssi : List (Nat × Byte × Byte) := []
  deriving DecidableEq, Repr

/-- The transmitter registers (R167, R170, R175) and the external PA loop (R169). -/
structure TxRegs where
  cfg : Word := 0x4000
  cfgAct : Word := 0x4000
  cfgWritten : Bool := false
  regLock : Bool := false
  extPa : Bool := false
  txOn : Bool := false
  range : BitVec 3 := 0
  pwr : BitVec 10 := 0
  resDrop : Word := 0
  /-- The PA_VCTL code now driven, and the code that last met the target in each range (R169). -/
  vctl : BitVec 12 := 0
  /-- The loop answers a reading above the range maximum plus 0.5 dB (R169 step 4). -/
  high : Bool := false
  codes : List (Nat × BitVec 12) := []
  /-- The last transmission that went on air. -/
  last : Option Tx := none
  deriving DecidableEq, Repr

/-- The synthesiser (R164 to R166). The table holds word 0 of entry k at 2k and word 1 at 2k + 1. -/
structure Syn where
  lock : Bool := false
  on : Bool := false
  unlk : Bool := false
  idx : BitVec 9 := 0
  /-- The carrier tuned to in units of 50 Hz, with the output divider, doubled, NINT and K (R162). -/
  carrier : Nat := 0
  div2 : Nat := 0
  nint : Nat := 0
  frac : Nat := 0
  tidx : BitVec 9 := 0
  table : Memory := []
  inval0 : Bool := false
  inval1 : Bool := false
  /-- A full calibration of the entry `idx` is running (R164). -/
  fullCal : Bool := false
  deriving DecidableEq, Repr

/-- One charge of the duty store: on-air Ticks of a frame in a range (R179). -/
structure Charge where
  range : Nat
  frame : Int
  ticks : Nat
  deriving DecidableEq, Repr

/-- The transmit gate and its duty store (R172 to R180). Frames c − 3,600 to c − 1 carry the fill of R180. -/
structure Gate where
  filled : Bool := false
  coldC : Int := 0
  used : List Charge := []
  deriving DecidableEq, Repr

/-- The kinds of calibration run (R403). -/
inductive RunKind where
  | powerUp | recovery | triggered | requested
  deriving DecidableEq, Repr

/-- A calibration run in progress (R403, R405): the steps not yet made, by part and antenna (B = true), the steps to make
again afterwards, and the parts measured. -/
structure CalRun where
  kind : RunKind
  pend : List (CalPart × Bool)
  again : List (CalPart × Bool)
  done : List CalPart
  /-- Parts that a CAL RUN command still waits for (R405). -/
  need : List CalPart
  deriving DecidableEq, Repr

/-- A step: its part and antenna, the Ticks of the schedule between which it runs (R400, R401), and whether it is one of a
power-up run (R403). -/
structure CalStep where
  part : CalPart
  antB : Bool
  start : Nat
  stop : Nat
  powerUp : Bool := false
  deriving DecidableEq, Repr

/-- The calibration engine (18_calibration). -/
structure Cal where
  cfg : Word := 0x5000
  run : Option CalRun := none
  temp : BitVec 10 := 0
  tref : BitVec 10 := 0
  vpa : BitVec 13 := 0
  esel : Word := 0
  app : List (Nat × Int) := []
  tgt : List (Nat × Int) := []
  estA : Nat := 0
  estB : Nat := 0
  estNewA : Bool := true
  estNewB : Bool := true
  /-- Steps discarded for a clip event that no run repeats, with antenna B marked (R402). -/
  redo : List (CalPart × Bool) := []
  /-- The steps made lately. -/
  steps : List CalStep := []
  /-- The figures of the last measurement on an antenna's ADC, and whether an element of it was moving then (R407). -/
  adcA : Option (AdcFig × Bool) := none
  adcB : Option (AdcFig × Bool) := none
  qimg : Word := 0
  imgStale : Bool := false
  qlol : Word := 0
  lolStale : Bool := false
  figFrame : BitVec 32 := 0
  /-- The codes at the 8 points of the detector table (R169, R394). -/
  padet : List (BitVec 12) := List.replicate 8 0
  padetNew : Option (List (BitVec 12)) := none
  deriving DecidableEq, Repr

/-- Whether a core executes (R228, R247, R381). -/
inductive CoreRun where
  | held | running | gated | stopped
  deriving DecidableEq, Repr

/-- A write that later instructions do not see yet (R235). -/
inductive PendDst where
  | g (i : BitVec 4)
  | p (i : BitVec 3)
  | ac (i : BitVec 2)
  | cst
  | sticky
  deriving DecidableEq, Repr

/-- A pending write: `left` further instructions still read the old value (R235). -/
structure PendWrite where
  left : Nat
  dst : PendDst
  val : Acc
  deriving DecidableEq, Repr

/-- A branch whose delay slot has not executed yet (R260); RETI and RETT restore CST after it (R244, R246). -/
structure Branch where
  /-- Where execution goes on after the delay slot; none for a branch not taken. -/
  target : Option PAddr
  cst : Option Word
  /-- REPCNT at RETI or RETT: executions of the repeat to resume at the target (R242); else 0. -/
  resume : Word
  /-- The repeat to resume allows interrupts (RPTI). -/
  intr : Bool
  deriving DecidableEq, Repr

/-- A repeat in progress (R240): executions still to come, and whether interrupts are allowed (RPTI). -/
structure Repeat where
  left : Word
  intr : Bool
  /-- The first execution is over (R242: no interrupt before it). -/
  started : Bool
  deriving DecidableEq, Repr

/-- One Facet core (10_facet_model), its mailbox and its per-requestor registers. -/
structure Core where
  run : CoreRun := .held
  pc : PAddr := 0
  g : Vector Word 16 := Vector.replicate 16 0
  p : Vector Addr 8 := Vector.replicate 8 0
  ac : Vector Acc 4 := Vector.replicate 4 0
  cst : Word := 0
  repcnt : Word := 0
  bada : Bool := false
  thand : Bool := false
  stktrap : Bool := false
  imask : Word := 0
  ipend : Word := 0
  ipc : PAddr := 0
  icst : Word := 0
  tpc : PAddr := 0
  tcst : Word := 0
  tcause : Word := 0
  taddr : Addr := 0
  stack : Vector Word 8 := Vector.replicate 8 0
  sp : Nat := 0
  depth : Nat := 0
  pending : List PendWrite := []
  branch : Option Branch := none
  rpt : Option Repeat := none
  /-- The repeat that the last trap suspended allows interrupts (R242). -/
  rptIntr : Bool := false
  lram : Memory := []
  lramBad : List Nat := []
  lramSingle : List Nat := []
  pram : Memory := []
  pramBad : List Nat := []
  pramSingle : List Nat := []
  pcec : Byte := 0
  lcec : Byte := 0
  qevsel : Vector Word 8 := Vector.replicate 8 0
  lpop : Word := 0
  mbox : Vector Word 16 := Vector.replicate 16 0
  busy : Bool := false
  dup : Bool := false
  snap : Snap := {}
  deriving DecidableEq, Repr

/-- A slow service call that TMON has worked on and not yet answered (R270): the reply words. -/
structure SlowReply where
  caller : CoreId
  status : Byte
  words : List Word
  deriving DecidableEq, Repr

/-- Work of core T that TMON has set aside: the powered-down domain that its access met, and where it stood (R278). -/
structure SetAside where
  dom : Domain
  pc : PAddr
  cst : Word
  branch : Option Branch
  rpt : Option Repeat
  deriving DecidableEq, Repr

/-- The system block: watchdog, watermark, service calls, TMON information (12_firmware). -/
structure Sys where
  wdTicks : Word := 0
  wdLeft : Word := 0
  wdOn : Bool := false
  kicked : BitVec 6 := 0
  released : BitVec 6 := 0
  wmark : BitVec 32 := 0xFFFFFFFF
  fwLock : Bool := false
  slow : List SlowReply := []
  lastServed : CoreId := .a5
  dutyFrm : BitVec 32 := 0
  dutyTot : List Word := []
  /-- The cores whose calls TMON has set aside, each with the ledger bank whose wake it awaits (R278). -/
  waiting : List (CoreId × Nat) := []
  /-- Accesses of core T set aside for a powered-down domain (R278). -/
  setAside : List SetAside := []
  deriving DecidableEq, Repr

/-- The frame record of the always-on logic (R412). -/
structure FrameRec where
  frame : BitVec 32 := 0
  fic : Word := 0
  cir : Word := 0
  rot : Word := 0
  cycLen : BitVec 12 := 900
  rotLen : BitVec 10 := 672
  cycPend : Option (BitVec 12) := none
  rotPend : Option (BitVec 10) := none
  deriving DecidableEq, Repr

/-- The always-on memory items of R411. -/
structure Aon where
  boot : Word := 0
  resetCause : BitVec 4 := 0
  safeCause : BitVec 4 := 0
  mode : Option (List Word) := none
  ticket : Word := 1
  bslot : Bool := false
  cfgv : BitVec 2 := 0
  cfgvFrame : Option (BitVec 32) := none
  frec : Option FrameRec := none
  deriving DecidableEq, Repr

/-- Factory trim (R396, R403): the values from which calibration starts, by element number and 0 where none is listed, the
codes of the detector table's 8 points, and the power of each in internal PA mode, in 0.25 dBm. -/
structure Trim where
  elem : List (Nat × Int) := []
  det : List (BitVec 12) := List.replicate 8 0
  dbm : List Int := List.replicate 8 0
  deriving DecidableEq, Repr

/-- One-time programmable items (R176, R222, R273, R275, R282, R283, R444). -/
structure Otp where
  trim : Trim := {}
  /-- The words of the patch area that are not 0, 12 bits each, 512 from program address 0x2000 of core T (R222), and the
  patch level (R275). -/
  patch : Memory := []
  patchLevel : Byte := 0
  region : Option (List Word) := none
  keyHash : Option (List Byte) := none
  secret : Option (List Byte) := none
  svn : Nat := 0
  deriving DecidableEq, Repr

/-- How far the boot has come (R419, R420). -/
inductive BootStage where
  | inReset | image | hostLoad | released | calibrated | up
  deriving DecidableEq, Repr

/-- The boot state: BOOTSEL as sampled, the slots refused, the container as loaded over Port S (R418 to R420). -/
structure Boot where
  stage : BootStage := .inReset
  bootsel : Bool := false
  tried0 : Bool := false
  tried1 : Bool := false
  /-- Restart without image load (R385). -/
  noLoad : Bool := false
  buf : List Byte := []
  rej : Bool := false
  seqBit : Bool := false
  frag : Bool := false
  ovr : Bool := false
  deriving DecidableEq, Repr

/-- What TMON knows of the image it released (R275, R279). -/
structure Img where
  valid : Bool := false
  slot : BitVec 4 := 0
  version : BitVec 32 := 0
  svn : Nat := 0
  cores : BitVec 6 := 0
  keyHash : List Byte := []
  deriving DecidableEq, Repr

/-- The power registers and domains (17_power). -/
structure Pwr where
  ctl : BitVec 2 := 0
  state : PwrState := .run
  resume : Bool := false
  entering : Bool := false
  /-- Entry is to SLEEP. -/
  toSleep : Bool := false
  wsrc : BitVec 3 := 0
  wakecfg : Word := 0
  bankcfg : Byte := 0xFF
  bankOn : Byte := 0xFF
  pll : Bool := false
  rxa : Bool := false
  rxb : Bool := false
  chan : Bool := false
  txs : Bool := false
  pa : Bool := false
  cores : BitVec 6 := 0
  planPtr : Addr := 0
  draining : List Domain := []
  /-- A wake edge held in cycles 1 and 2 of SLEEP entry (R386). -/
  heldWake : Option WakeSrc := none
  /-- Rotation boundaries passed in STANDBY whose rollover is due (R385). -/
  dueRoll : Nat := 0
  /-- AFW waits for resumed service after a wake (R385). -/
  resuming : Bool := false
  /-- The steps after the entry boundary have run; entry waits for a drain or for SLEEP's last cycles (R382, R386). -/
  past : Bool := false
  deriving DecidableEq, Repr

/-- A word of a queue with the POISON mark of an uncorrectable queue RAM word (R373). -/
structure QWord where
  v : Word
  poison : Bool
  /-- A single-bit error, corrected and counted when the word is read (R369). -/
  single : Bool := false
  deriving DecidableEq, Repr

/-- One hardware queue (R370 to R376). -/
structure Queue where
  base : BitVec 9 := 0
  en : Bool := false
  sizeM1 : BitVec 9 := 0
  words : List QWord := []
  last : Word := 0
  thr : Word := 1
  under : Bool := false
  ovr : Bool := false
  poisoned : Bool := false
  cec : Word := 0
  deriving DecidableEq, Repr

/-- The queue block. -/
structure Que where
  q : Vector Queue 32 := Vector.replicate 32 {}
  cfgErr : Bool := false
  /-- The DMA engine's last pop, as QUE_LPOP (R372). -/
  dmaLpop : Word := 0
  deriving DecidableEq, Repr

/-- The ECC block (R367, R369). -/
structure Ecc where
  cec : Vector Word 8 := Vector.replicate 8 0
  ue : Bool := false
  ueDma : Bool := false
  ueQ : Bool := false
  uaddr : Addr := 0
  ureq : BitVec 3 := 0
  deriving DecidableEq, Repr

/-- A line in a port's output queue and how many of its characters have left (R307); `cls` is none for a response. -/
structure OutLine where
  cls : Option EvClass
  text : String
  sent : Nat := 0
  /-- The `+OK` whose sending an action waits for (R304, R336). -/
  mark : Bool := false
  /-- Port settings that take effect when the line is enqueued (R302). -/
  set : Option (MPort × PortArgs) := none
  /-- A divisor that its port takes once the line has been sent (R302). -/
  div : Option Word := none
  /-- The final line of a long operation: once enqueued, the interpreter is no longer busy (R303). -/
  ends : Bool := false
  deriving DecidableEq, Repr

/-- The Mustix side of a command port (13_mustix_language). -/
structure Lines where
  gen : Bool := false
  subs : List EvClass := [.disp, .alarm]
  lapsed : Bool := false
  /-- The partial line, newest character first. -/
  partialRev : List Char := []
  /-- A 256th character was reached; discard up to the terminator (R287). -/
  overlong : Bool := false
  /-- The previous character was CR, so an LF belongs to it (R286). -/
  lastCr : Bool := false
  /-- Discarding up to the next terminator after !READY (R422). -/
  midLine : Bool := false
  /-- A forbidden character stood in a generated line (R286, R295). -/
  badChar : Bool := false
  /-- Lines ended by a terminator, not yet buffered, each with its overlong and badChar marks. -/
  done : List (String × Bool × Bool) := []
  /-- Complete lines waiting for the interpreter, with the badChar mark. -/
  waiting : List (String × Bool) := []
  out : List OutLine := []
  deriving DecidableEq, Repr

/-- UART registers of Port A or B (R343) and the divisor in force in each direction (R341). -/
structure Uart where
  cfg : Word := 0
  div : Word := 0x029B
  divRx : Word := 0x029B
  divTx : Word := 0x029B
  brk : Bool := false
  ferr : Bool := false
  rxOvr : Bool := false
  ferrc : Byte := 0
  ovrc : Byte := 0
  l : Lines := {}
  deriving DecidableEq, Repr

/-- Port S registers (R351). -/
structure PortS where
  cfg : Word := 0
  sbReady : Bool := false
  sbBusy : Bool := false
  sbEvt : Bool := false
  sbSafe : Bool := false
  frag : Bool := false
  ovr : Bool := false
  seqBit : Bool := false
  txavl : Word := 0
  fragc : BitVec 4 := 0
  shortc : BitVec 4 := 0
  ovrc : BitVec 4 := 0
  xtrac : BitVec 4 := 0
  l : Lines := {}
  /-- The last frame sent to the host: status byte and data (R346). -/
  lastTx : List Byte := []
  deriving DecidableEq, Repr

/-- A Port M command with the registers latched at GO (R354). -/
structure MCmd where
  hold : Bool
  sel : BitVec 2
  len : BitVec 12
  cfg : Word
  dly : Word
  gap : Word
  tx : Addr
  txOff : Bool
  rx : Addr
  rxOff : Bool
  deriving DecidableEq, Repr

/-- Port M (R353 to R357). -/
structure PortM where
  cfg : Word := 0x007F
  dly : Word := 0x0202
  gap : Word := 0x0002
  txal : Word := 0
  txah : Word := 0
  rxal : Word := 0
  rxah : Word := 0
  run : Option MCmd := none
  pend : Option MCmd := none
  held : Option (BitVec 2) := none
  err : Bool := false
  /-- The bits of the last completed transfer, as placed on SM_SDO. -/
  lastOut : List Word := []
  /-- Ledger banks that powered down under the transfer in flight, and the words it had taken from the output buffer by
  then (R389). -/
  lost : List Nat := []
  early : List Word := []
  deriving DecidableEq, Repr

/-- Port T (R358 to R362). -/
structure Timep where
  cfg : Word := 0
  ppsCnt : Word := 0
  ts : BitVec 26 := 0
  short : Bool := false
  brk : Bool := false
  ferr : Bool := false
  rxOvr : Bool := false
  /-- Sentences waiting on GT_TXD. -/
  tx : List Byte := []
  /-- Last valid RMC or ZDA time, seconds since 2000-01-01 (R360). -/
  utc : Option Nat := none
  lastPpsFrame : Option (BitVec 32) := none
  deriving DecidableEq, Repr

/-- The pins the chapters give a level, apart from those that are a register bit (R414, R445). -/
structure Pins where
  safe : Bool := false
  trsw : Bool := false
  paEn : Bool := false
  clkoutOn : Bool := false
  deriving DecidableEq, Repr

/-- The ledger SRAM (16_memory_queues). `undef` gives, per bank, 0 while unlisted words read as fresh zeros (R368)
and n > 0 after the n-th event that left the bank's contents undefined (R411); `cleared` says that AFW has cleared
its tables since (R411). `bad` and `single` hold ECC words (even addresses) with an uncorrectable or a single-bit error.
`events` counts the changes whose words are free values; the reservation map stands as the `resv`-th left it, where AFW has
filled it, and the event log ring as the `ring`-th, where it holds an entry (R183). -/
structure Sram where
  cells : Memory := []
  undef : Vector Nat 8 := Vector.replicate 8 0
  cleared : Bool := false
  bad : List Nat := []
  single : List Nat := []
  events : Nat := 0
  resv : Option Nat := none
  ring : Option Nat := none
  deriving DecidableEq, Repr

/-- One exchange of a try's chain (R59): frame, P slot, and the bundle's upstream transmitter (0 = coordinator). -/
structure Hop where
  frame : Nat
  slot : Nat
  upstream : Word
  relay : Word
  deriving DecidableEq, Repr

/-- The outcomes of a try (R67). -/
inductive TryOutcome where
  | acked | silent | blocked | synlate | gated | lost | unsent
  deriving DecidableEq, Repr

/-- One reserved try (R58 to R64). Times are absolute Ticks, frame × 9,600 + Tick. -/
structure Try where
  frame : Nat
  slot : Nat
  /-- The delivering transmitter: 0 for the coordinator, else a relay. -/
  txr : Word
  down : List Hop
  up : List Hop
  commit : Nat
  outcomeAt : Nat
  /-- Position in the compound packet, once placed. -/
  pos : Option Nat
  /-- The outcome known so far. -/
  result : Option TryOutcome
  /-- The entry stands sealed in the packet or bundle built for it. -/
  placed : Bool
  /-- The transmission that carries the try was committed. -/
  sent : Bool
  /-- When its packet was last built, a key that the try needs was absent (R67, R462). -/
  noKey : Bool := false
  deriving DecidableEq, Repr

/-- What AFW keeps for an outstanding order beside its table entry (R63, R64). -/
structure OrderX where
  ticket : Word
  idx : Nat
  unit : Word
  act : Nat
  tries : List Try
  body : List Byte
  port : Nat
  /-- The node record words that a NETCFG order installs at DONE, APPLIED (R111). -/
  netcfg : Option (List Word)
  keySend : Bool
  /-- Tries whose outcome has been counted in the table entry (NEXT of R201). -/
  next : Nat := 0
  deriving DecidableEq, Repr

/-- An order the engine will submit (R197, R461). -/
structure EngineOrder where
  unit : Word
  flow : Nat
  deadline : Nat
  retries : Nat
  deriving DecidableEq, Repr

/-- What SHARE SHOW returns for a member of the last pass (R316). -/
structure ShareRow where
  seg : Nat
  isSeg : Bool
  member : Nat
  share : Word
  lo : Nat
  hi : Nat
  q : Nat
  issued : String
  adm : String
  deriving DecidableEq, Repr

/-- The base plan of the shipped AFW (R323). -/
structure BasePlan where
  roles : List Nat := [1, 2, 0, 0, 0, 0, 0, 0]
  classes : List Nat := [1, 1, 1, 1, 1, 1, 1, 1]
  fec : List Bool := [false, false, false, false, false, false, false, false]
  bch : Option Chan := none
  dch : List Chan := []
  wch : Option Chan := none
  wclass : Option Nat := none
  pwr : Int := 0
  uct : List (Nat × Chan) := []
  n : Nat := 1
  deriving DecidableEq, Repr

/-- A report received, for the group acknowledgement and for repeats (R116, R117). -/
structure SeenReport where
  unit : Word
  rseq : Byte
  frame : Nat
  padj : BitVec 2
  /-- Received from the unit itself, not in an up bundle. -/
  direct : Bool
  deriving DecidableEq, Repr

/-- An entry of the event log (R333, R462). -/
structure LogEntry where
  seqNo : Nat
  frame : BitVec 32
  kind : String
  pairs : String
  deriving DecidableEq, Repr

/-- An order entry or control position a relay holds (R216). -/
structure RelayEntry where
  unit : Word
  ticket : Word
  op : Word
  param : BitVec 32
  body : List Byte
  frame : Nat
  slot : Nat
  pos : Option Nat
  sent : Bool
  result : Option TryOutcome
  ack : Byte
  deriving DecidableEq, Repr

/-- A try result a relay will report upstream (R217). -/
structure RelayResult where
  ticket : Word
  outcome : TryOutcome
  ack : Byte
  frame : Nat
  slot : Nat
  deriving DecidableEq, Repr

/-- A position a depth-1 relay forwards in an onward exchange (R216). -/
structure Forward where
  frame : Nat
  bytes : List Byte
  deriving DecidableEq, Repr

/-- A report a relay forwards in its up bundle (R129). -/
structure FwdReport where
  unit : Word
  frame : Nat
  payload : List Byte
  deriving DecidableEq, Repr

/-- A wake burst run placed in a frame (R219, R220, R322): slots first to first + n − 1. -/
structure WakeRun where
  frame : Nat
  first : Nat
  n : Nat
  wcode : BitVec 12
  /-- 0 = the coordinator's own burst. -/
  via : Word
  /-- Frame of the down bundle that carries the control position (relayed wakes). -/
  bundle : Nat
  noff : Nat
  deriving DecidableEq, Repr

/-- A duty figure of a relay's transmitter (R61, R129). -/
structure RelayDuty where
  relay : Word
  range : Nat
  frame : Nat
  ticks : Nat
  deriving DecidableEq, Repr

/-- Consecutive up windows of a relay without a valid up bundle (R215). -/
structure UpMiss where
  relay : Word
  /-- Windows missed up to the start of this frame, or since the last bundle. -/
  count : Nat
  /-- The slots of this frame in whose window a valid up bundle came. -/
  heard : List Nat
  deriving DecidableEq, Repr

/-- A relay descriptor (R205): frequencies in units of 100 Hz. -/
structure RelayDesc where
  relay : Word
  beacon : Nat
  dch : List Nat
  wake : Nat
  deriving DecidableEq, Repr

/-- A scheduled report that is expected (R101, R114): its unit and frame, the U slot, and the entry of the uplink channel table,
which is the lane that listens to it. -/
structure Expected where
  unit : Word
  frame : Nat
  slot : Nat
  entry : Nat
  deriving DecidableEq, Repr

/-- What a ledger record held when it last rolled over: ENT and DELIV (R189, R200). -/
structure Rolled where
  unit : Word
  ent : Nat
  deliv : Nat
  deriving DecidableEq, Repr

/-- A packet built for a slot of a frame, with its number of positions (R460). -/
structure Built where
  slot : Nat
  frame : Nat
  npos : Nat
  /-- Of a down bundle: the tickets in order, with their positions. -/
  places : List (Word × Nat) := []
  /-- The tickets whose entries went into the packet. -/
  tickets : List Word := []
  /-- Of an up bundle: the results and reports in it, and the duty entries that found no room (R129). -/
  results : List RelayResult := []
  reports : List FwdReport := []
  left : List (List Byte) := []
  /-- Of an up bundle: the figures of the relay below that have become duty entries (R129). -/
  below : List RelayDuty := []
  deriving DecidableEq, Repr

/-- A try that went on air and whose order was disposed before its ack sub-slot ended (R72). -/
structure LateTry where
  ticket : Word
  unit : Word
  frame : Nat
  slot : Nat
  pos : Nat
  deriving DecidableEq, Repr

/-- The counters of STAT part ORDERS and LANES (R332). -/
structure Stats where
  accepted : Nat := 0
  done : Nat := 0
  noack : Nat := 0
  blocked : Nat := 0
  cancelled : Nat := 0
  aborted : Nat := 0
  rejected : Nat := 0
  dropc : Nat := 0
  hdrc : Nat := 0
  filtc : Nat := 0
  resdrop : Nat := 0
  /-- Corrected words of each queue that AFW has read and cleared from QUE_CEC. -/
  cec : Vector Nat 32 := Vector.replicate 32 0
  deriving DecidableEq, Repr

/-- The UTC label (R45, R329): frame 0's UTC in seconds, and its source. -/
inductive UtcSrc where
  | host | nmea | beacon
  deriving DecidableEq, Repr

/-- What the shipped AFW keeps outside the tables of R183. -/
structure Afw where
  ready : Bool := false
  staged : BasePlan := {}
  current : BasePlan := {}
  /-- The base plan that becomes current with the pending plan, and whether that plan is latched. -/
  coming : Option BasePlan := none
  comingLatched : Bool := false
  /-- The base plans behind the current plan and behind the latched one, where those are laid over one (R220, R322). -/
  base : Option Memory := none
  nextBase : Option Memory := none
  enable : Bool := false
  startfic : Nat := 1
  dlframes : Nat := 600
  retries : Nat := 2
  orders : List OrderX := []
  /-- Dispositions written to the history since the AFW start (R201). -/
  histNext : Nat := 0
  /-- Orders of the pass that has been computed and not yet submitted (R197). -/
  passOrders : List EngineOrder := []
  /-- Engine orders held while a differing plan waits (R461). -/
  heldOrders : List EngineOrder := []
  rows : List ShareRow := []
  lastPass : Option (BitVec 32) := none
  /-- A pass whose start fell while LEDGER IMPORT ran (R318). -/
  passDue : Bool := false
  seen : List SeenReport := []
  log : List LogEntry := []
  logNext : Nat := 1
  stats : Stats := {}
  utc : Option Int := none
  usrc : UtcSrc := .host
  nmeaOn : Bool := false
  wakes : List WakeRun := []
  woken : List (Word × Nat) := []
  relayDuty : List RelayDuty := []
  relayDesc : List RelayDesc := []
  upMiss : List UpMiss := []
  late : List LateTry := []
  -- Relay mode
  relayEntries : List RelayEntry := []
  relayResults : List RelayResult := []
  forwards : List Forward := []
  fwdReports : List FwdReport := []
  /-- Duty entries that did not fit an up bundle (R129). -/
  dutyLeft : List (List Byte) := []
  /-- The scheduled reports of the current frame (R101). -/
  expected : List Expected := []
  /-- The records as the last Rotation boundary found them, and the frame that it began (R189, R200). -/
  rolled : List Rolled := []
  rollFrame : Nat := 0
  /-- Tickets reported ACKED, with the ack byte and the Cycle in which it was (R68). -/
  ackedTickets : List (Word × Byte × Nat) := []
  /-- Cycles counted since the AFW start, for R68. -/
  cycleNo : Nat := 0
  /-- The upstream PLAN page and the CFGV under which it came (R207, R211). -/
  upPlan : Option (List Byte × BitVec 2) := none
  /-- The copied PLAN page that the relay's own beacon carries; it changes with the relay's own CFGV (R107, R210). -/
  planCopy : Option (List Byte) := none
  upStep : Option (List Byte) := none
  upTime : Option (List Byte) := none
  /-- Buffers of the plan's transmit slots that hold a built packet (R460). -/
  built : List Built := []
  firstBeacon : Bool := true
  /-- CFGV increments already due: the frame in which each applies (R107). -/
  cfgvDue : Option (BitVec 32) := none
  /-- Safe-hold: alarm reports of the last 32 frames (R426). -/
  alarms : List SeenReport := []
  deriving DecidableEq, Repr

/-- The line whose command the interpreter executes (R301). -/
structure CurLine where
  port : MPort
  gen : Bool
  tag : String
  /-- The line as it was taken (R300). -/
  text : String
  deriving DecidableEq, Repr

/-- The long operations of R303. -/
inductive LongKind where
  | calRun | fwLoad | fwVerify | nodeImport | ledgerImport | planCommit | power | modeSet | peekPoke | resume
  deriving DecidableEq, Repr

/-- A long operation: where its final line goes, and the line once it is known (R304). -/
structure LongOp where
  kind : LongKind
  cur : CurLine
  fin : Option String
  /-- The final line has been handed to its port and waits there for room (R303, R307). -/
  given : Bool := false
  deriving DecidableEq, Repr

/-- What the interpreter waits for after a `+OK` that must leave the port first (R304, R336, R382). -/
inductive AfterSend where
  | reset | modeSet (block : List Word) | standby | sleep | safeEnter
  deriving DecidableEq, Repr

/-- A `+OK` that must be enqueued before an action and, where `sent`, have left its port: the port, and the Ticks left
of the 2 s after which the action takes place although the enqueued line has not been sent (R304, R336, R382). -/
structure SendWait where
  port : MPort
  act : AfterSend
  sent : Bool := true
  left : Nat := 19200
  deriving DecidableEq, Repr

/-- The command interpreter (13_mustix_language). -/
structure Interp where
  cur : Option CurLine := none
  long : Option LongOp := none
  lastPort : MPort := .s
  /-- Response lines that wait for room, each with its port (R307). -/
  lines : List (MPort × OutLine) := []
  wait : Option SendWait := none
  /-- A GNSS sentence that waits for room on the GT_TXD queue (R362). -/
  gnss : Option (List Byte) := none
  deriving DecidableEq, Repr

/-- Safe-hold (R424): in force, cause, frame of entry, and whether the entry lines have been enqueued. -/
structure Safe where
  on : Bool := false
  cause : BitVec 4 := 0
  frame : BitVec 32 := 0
  reported : Bool := false
  beforeReady : Bool := false
  deriving DecidableEq, Repr

/-- The whole machine. -/
structure State where
  clk : Clk := {}
  seq : Seq := {}
  rxw : Rxw := {}
  lane : Lane := {}
  tx : TxRegs := {}
  syn : Syn := {}
  gate : Gate := {}
  cal : Cal := {}
  cores : Vector Core 7 := Vector.replicate 7 {}
  sys : Sys := {}
  aon : Aon := {}
  otp : Otp := {}
  boot : Boot := {}
  img : Img := {}
  pwr : Pwr := {}
  que : Que := {}
  ecc : Ecc := {}
  porta : Uart := {}
  portb : Uart := {}
  ports : PortS := {}
  portm : PortM := {}
  timep : Timep := {}
  pins : Pins := {}
  sram : Sram := {}
  afw : Afw := {}
  interp : Interp := {}
  safe : Safe := {}
  /-- The mode block in the last 4 KiB sector of the boot flash (R284). -/
  modeFlash : Option (List Word) := none
  /-- The district code (R86). No command or register of the manual sets it. -/
  district : BitVec 12 := 0
  /-- The model's own counter of free values; nothing rests on its value (log entry 2). -/
  free : Nat := 0
  /-- The commands that wait, first in first out. -/
  pending : List Instr := []
  deriving DecidableEq, Repr

/-- The machine right after reset: every register at its reset value (20_register_map), memory fresh, nothing
started. Fields the spec gives no reset value are named in log entry 1. -/
def State.reset : State := {}

/-- Why the machine stops. Constructors' docstrings say who raises them. -/
inductive Fault where
  /-- TEST is high: factory modes whose behaviour the manual does not define (R446). No command raises it; safe. -/
  | factoryMode
  deriving DecidableEq, Repr

/-- Why a command is refused. -/
inductive Refusal where
  /-- Raised by an arm of exec whose command has no meaning yet; safe. -/
  | notModelled (mnemonic : String)
  /-- Raised by a Facet command whose operands name a register or an immediate that no encoding of the core's width
  has (R222, R266): such an instruction cannot be written. Safe. -/
  | notEncodable
  deriving DecidableEq, Repr

end Sys2Proof.Machine
end

