-- ==== Sys2Proof/Machine/Ops.lean ====
section
/-! DEFINITION. The named operations over memory, cores, interrupt lines and hardware queues that every meaning
uses. -/

namespace Sys2Proof.Machine

open Sys2Proof

/-- What a meaning answers. -/
abbrev Out := Host.Outcome State Fault Refusal

/-! ### Sparse memory in canonical form -/

/-- The word at an address; an unlisted address reads as `d` says. -/
def Memory.read (d : Nat → Word) : Memory → Nat → Word
  | [], a => d a
  | (b, w) :: r, a => if a = b then w else if a < b then d a else Memory.read d r a

/-- Store a word, keeping the canonical form. -/
def Memory.write (d : Nat → Word) : Memory → Nat → Word → Memory
  | [], a, v => if v = d a then [] else [(a, v)]
  | (b, w) :: r, a, v =>
    if a < b then (if v = d a then (b, w) :: r else (a, v) :: (b, w) :: r)
    else if a = b then (if v = d a then r else (b, v) :: r)
    else (b, w) :: Memory.write d r a v

/-- The default of stores that start as zeros: plans, local RAM, tables inside a block. -/
def zeros : Nat → Word := fun _ => 0

def Memory.get0 (m : Memory) (a : Nat) : Word := m.read zeros a
def Memory.set0 (m : Memory) (a : Nat) (v : Word) : Memory := m.write zeros a v

/-- Drop the cells that a test names. -/
def Memory.drop (m : Memory) (p : Nat → Bool) : Memory := m.filter (fun c => !p c.1)

/-! ### Small helpers -/

/-- Bit b of a word. -/
def bit (w : Word) (b : Nat) : Bool := w.getLsbD b

/-- A word with one bit. -/
def bitWord (b : Nat) (v : Bool) : Word := if v then (1 : Word) <<< b else 0

/-- Bits [hi:lo] of a word as a number. -/
def field (w : Word) (hi lo : Nat) : Nat := (w.toNat >>> lo) % 2 ^ (hi - lo + 1)

/-- A number placed at bit lo. -/
def place (v lo : Nat) : Word := BitVec.ofNat 16 (v <<< lo)

/-- A list of bits set to true, as a mask. -/
def maskOf (l : List Nat) : Nat := l.foldl (fun m b => if m.testBit b then m else m + 2 ^ b) 0

/-- A two's-complement word as an integer. -/
def sword (w : Word) : Int := w.toInt

/-- Bytes of words, first byte in [15:8] (R156, R459). -/
def bytesOfWords : List Word → List Byte
  | [] => []
  | w :: r => hiByte w :: loByte w :: bytesOfWords r

/-- Words of bytes, the last padded with 0x00. -/
def wordsOfBytes : List Byte → List Word
  | [] => []
  | [b] => [BitVec.ofNat 16 (b.toNat * 256)]
  | b :: c :: r => BitVec.ofNat 16 (b.toNat * 256 + c.toNat) :: wordsOfBytes r

/-- Big-endian number of bytes. -/
def beNat (l : List Byte) : Nat := l.foldl (fun n b => n * 256 + b.toNat) 0

/-- n as k bytes, most significant first. -/
def beBytes (k n : Nat) : List Byte :=
  (List.range k).map (fun i => BitVec.ofNat 8 (n >>> (8 * (k - 1 - i))))

/-- A 32-bit number from its low and high word (R5). -/
def pair32 (lo hi : Word) : Nat := lo.toNat + 65536 * hi.toNat

def lo16 (n : Nat) : Word := BitVec.ofNat 16 n
def hi16 (n : Nat) : Word := BitVec.ofNat 16 (n / 65536)

/-- Saturating increment of an error counter. -/
def satInc (w : Word) : Word := if w = 0xFFFF then w else w + 1
def satInc8 (b : Byte) : Byte := if b = 0xFF then b else b + 1

/-! ### Time -/

/-- Whole Ticks by which the current frame is longer than 9,600: the extension of a step (R47, R48). -/
def Seq.ext (q : Seq) : Nat := if q.stepFrame = some q.frame then q.step.toNat / 4000 else q.extra

/-- The Tick of the schedule. In a frame that carries a step, the extension lies in the quiet interval of slot 7, and
the Ticks of slot 0's window and commit point count back from the delayed frame boundary (R48). -/
def Seq.schedTick (q : Seq) : Nat := if q.tick ≤ 9528 then q.tick else max 9528 (q.tick - q.ext)

/-- The calibration engine as factory trim leaves it (R403, R411). -/
def Trim.start (t : Trim) : Cal := { app := t.elem, tgt := t.elem, padet := t.det }

/-- TMON version: [15:8] the mask ROM's, [7:0] the patch level of the OTP (R275). -/
def State.tmonVer (s : State) : Word := 0x0100 ||| s.otp.patchLevel.setWidth 16

/-- Frame × 9,600 + Tick: the absolute Tick of the schedule. -/
def State.now (s : State) : Nat := s.seq.frame.toNat * Config.frameTicks + s.seq.schedTick

/-- The Tick that runs, by frame and Tick of the frame: it counts on through the extension of a step (R48). -/
def State.tickNo (s : State) : Nat × Nat := (s.seq.frame.toNat, s.seq.tick)

/-- The source that drives the Tick now: a new selection acts from the next Tick edge on (R11, R12). -/
def State.tickFromRef (s : State) : Bool :=
  if s.clk.tickAt = some s.tickNo then s.clk.tickWas else s.clk.ticksrc

/-- Select the source of the Tick; the divider changes source at the next Tick edge, and until then the source that drives
this Tick goes on (R11, R12). -/
def State.selectTick (s : State) (ref : Bool) : State :=
  if s.clk.ticksrc = ref then s
  else { s with clk := { s.clk with ticksrc := ref, tickAt := some s.tickNo, tickWas := s.tickFromRef } }

/-- No core runs and nothing is served: from the end of an entry to STANDBY or SLEEP until the wake (R379, R382). -/
def State.asleep (s : State) : Bool := s.pwr.past || s.pwr.state == .standby || s.pwr.state == .sleep

/-- The current frame number. -/
def State.frm (s : State) : Nat := s.seq.frame.toNat

/-- Take the next free value of 16 bits. -/
def State.takeFree (s : State) : Word × State :=
  (Config.freeWord s.free, { s with free := s.free + 1 })

/-! ### Cores -/

def State.core (s : State) (c : CoreId) : Core := s.cores.get c.idx

def State.setCore (s : State) (c : CoreId) (k : Core) : State :=
  { s with cores := s.cores.set c.idx.val k c.idx.isLt }

def State.modCore (s : State) (c : CoreId) (f : Core → Core) : State := s.setCore c (f (s.core c))

/-- Apply to each core of a list. -/
def State.modCores (s : State) (cs : List CoreId) (f : Core → Core) : State :=
  cs.foldl (fun s c => s.modCore c f) s

def CoreId.all : List CoreId := [.a0, .a1, .a2, .a3, .a4, .a5, .t]

/-- A core that executes or whose clock is gated takes interrupt edges. -/
def Core.live (k : Core) : Bool := k.run == .running || k.run == .gated

/-- An edge line sets its IPEND bit (R243). A gated core whose line is also in IMASK restarts its clock (R381). -/
def Core.raise (line : Nat) (k : Core) : Core :=
  if k.live then
    let p := k.ipend ||| ((1 : Word) <<< line)
    { k with ipend := p,
             run := if k.run == .gated && (p &&& k.imask) != 0 then .running else k.run }
  else k

/-- Raise one edge line on every core. -/
def State.raiseAll (s : State) (line : Nat) : State := s.modCores CoreId.all (Core.raise line)

/-- TMON's reply into a core's mailbox: word 0 and the results, then BUSY, then DOORBELL (R269). -/
def Core.answer (status : Byte) (ws : List Word) (k : Core) : Core :=
  let w0 : Word := BitVec.ofNat 16 (status.toNat * 256) ||| (k.mbox.get 0 &&& 0x00FF)
  Core.raise 0 { k with mbox := Vector.ofFn (fun i => if i.val = 0 then w0 else ws.getD (i.val - 1) 0), busy := false }

/-- Answer the call of a core, if it has one outstanding. -/
def State.reply (s : State) (c : CoreId) (status : Byte) (ws : List Word) : State :=
  s.modCore c (fun k => if k.busy then k.answer status ws else k)

/-- The state of R228: what a core holds at reset and at every release. The core's memories, its ECC counters, its
mailbox and its QEVSEL registers are not among the registers it names. -/
def Core.released (k : Core) : Core :=
  { k with run := .running, pc := 0, g := Vector.replicate 16 0, p := Vector.replicate 8 0,
           ac := Vector.replicate 4 0, cst := 0, repcnt := 0, bada := false, thand := false, stktrap := false,
           imask := 0, ipend := 0, ipc := 0, icst := 0, tpc := 0, tcst := 0, tcause := 0, taddr := 0,
           stack := Vector.replicate 8 0, sp := 0, depth := 0, pending := [], branch := none, rpt := none,
           rptIntr := false }

/-! ### Ledger SRAM (R364 to R368, R183) -/

/-- Bank of a word address (R364). -/
def bankOf (a : Nat) : Nat := a / 0x100000

def keyBase : Nat := 0x780000
def sramEnd : Nat := 0x800000

/-- The reservation map and the event log ring (R183). The words with which AFW fills them are its own. -/
def resvArea (a : Nat) : Bool := 0x360000 ≤ a && a < 0x380000
def logArea (a : Nat) : Bool := 0x500000 ≤ a && a < 0x580000

/-- The event number of a bank's undefined contents, 0 = fresh zeros. -/
def Sram.epoch (m : Sram) (b : Nat) : Nat := if h : b < 8 then m.undef.get ⟨b, h⟩ else 0

/-- The last change of AFW's private areas that an address shows: of the reservation map, or of the event log ring. -/
def Sram.filled (m : Sram) (a : Nat) : Option Nat :=
  if resvArea a then m.resv else if logArea a then m.ring else none

/-- What an unlisted word reads as: zero while fresh, cleared or in the key region (R202), a free value after a reset that
left the bank undefined, and one of the last change where AFW has filled its private areas (R183, R368, R411). -/
def Sram.dflt (m : Sram) (a : Nat) : Word :=
  match m.filled a with
  | some k => Config.privateWord k a
  | none =>
    let n := m.epoch (bankOf a)
    if keyBase ≤ a || n = 0 || (m.cleared && (a < 0x388000 || logArea a)) then 0 else Config.undefWord n a

/-- AFW changes its reservation map, or writes an entry into the event log ring: what the area reads as is another free
value from then on (R183; log entry 4). -/
def Sram.touchResv (m : Sram) : Sram :=
  { m with cells := m.cells.drop resvArea, events := m.events + 1, resv := some (m.events + 1) }
def Sram.touchLog (m : Sram) : Sram :=
  { m with cells := m.cells.drop logArea, events := m.events + 1, ring := some (m.events + 1) }

def Sram.read (m : Sram) (a : Nat) : Word := m.cells.read m.dflt a
def Sram.write (m : Sram) (a : Nat) (v : Word) : Sram := { m with cells := m.cells.write m.dflt a v }

/-- The ledger SRAM's canonical form. -/
def Sram.wf (m : Sram) : Bool := m.cells.wf m.dflt

/-- The first address of the ECC word of a. -/
def eccWord (a : Nat) : Nat := a / 2 * 2

def State.rd (s : State) (a : Nat) : Word := s.sram.read a

/-- An access to a bank that is off wakes it, fresh (R392). -/
def State.wakeBank (s : State) (b : Nat) : State :=
  { s with pwr := { s.pwr with bankOn := s.pwr.bankOn ||| BitVec.ofNat 8 (2 ^ b) } }

/-- An access by a core to a radio block, at an address of the register page, wakes the block's domains where the sequencer
has powered them down: RXW those of the receiver, LANE the channelizers', TX and SYN the transmitter's (R388). It does not
wait for them (R434, log entry 38). -/
def State.wakeRadio (s : State) (a : Nat) : State :=
  if 0x2000 ≤ a ∧ a < 0x3000 then { s with pwr := { s.pwr with rxa := true, rxb := true, chan := true } }
  else if 0x3000 ≤ a ∧ a < 0x4000 then { s with pwr := { s.pwr with chan := true } }
  else if 0x4000 ≤ a ∧ a < 0x5000 then { s with pwr := { s.pwr with txs := true } }
  else s

/-- Turn a bank off: its contents are lost and it comes back fresh (R368, R388). -/
def State.bankOff (s : State) (b : Nat) : State :=
  let inB (a : Nat) : Bool := bankOf a == b
  { s with
    pwr := { s.pwr with bankOn := s.pwr.bankOn &&& ~~~(BitVec.ofNat 8 (2 ^ b)) },
    sram := { s.sram with
      cells := s.sram.cells.drop inB,
      undef := if h : b < 8 then s.sram.undef.set b 0 h else s.sram.undef, ring := if b = 5 then none else s.sram.ring,
      resv := if b = 3 then none else s.sram.resv,
      bad := s.sram.bad.filter (fun a => !inB a), single := s.sram.single.filter (fun a => !inB a) } }

/-- Words of a Port M transfer of n bits. -/
def mWords (n : Nat) : Nat := (n + 15) / 16

/-- Does a Port M buffer of n bits from a on lie in bank b, in whole or in part? -/
def inBank (a : Addr) (n : BitVec 12) (b : Nat) : Bool :=
  decide (bankOf a.toNat ≤ b) && decide (b ≤ bankOf (a.toNat + mWords n.toNat - 1))

/-- A bank powers down once the transfer that used it is complete (R389): what the transfer took from its output buffer is
kept, and what it stored in the bank is lost with the bank. -/
def State.drainBank (s : State) (b : Nat) : State :=
  let p := s.portm
  let p := match p.run with
    | none => p
    | some m =>
      if (!m.txOff && inBank m.tx m.len b) || (!m.rxOff && inBank m.rx m.len b) then
        { p with lost := b :: p.lost,
                 early := if p.lost.isEmpty then (List.range (mWords m.len.toNat)).map (fun i => s.sram.read (m.tx.toNat + i))
                          else p.early }
      else p
  { (s.bankOff b) with portm := p }

/-- Does a bank drain? -/
def State.drains (s : State) (b : Nat) : Bool :=
  s.pwr.draining.any (fun d => match d with | .ledger i => i.val == b | _ => false)

/-- An access to a draining bank waits until the power-down has completed, and finds the bank off (R389). -/
def State.settleBank (s : State) (b : Nat) : State :=
  if s.drains b then
    let t := s.drainBank b
    { t with pwr := { t.pwr with draining := t.pwr.draining.filter (fun d => match d with | .ledger i => i.val != b | _ => true) } }
  else s

/-- The reservation map follows the reservations (R63, R64, R183). -/
def State.mapResv (s : State) : State := { (s.wakeBank 3) with sram := s.sram.touchResv }

/-- A 16-bit write (R368): it never traps, and an uncorrectable pair stays uncorrectable. -/
def State.wr (s : State) (a : Nat) (v : Word) : State :=
  if a < sramEnd then
    { (s.wakeBank (bankOf a)) with
      sram := { (s.sram.write a v) with single := s.sram.single.filter (· != eccWord a) } }
  else s

/-- A write of a whole ECC word, which cures it (R368). -/
def State.wrPair (s : State) (a : Nat) (lo hi : Word) : State :=
  if a < sramEnd then
    let t := (s.wr a lo).wr (a + 1) hi
    { t with sram := { t.sram with bad := t.sram.bad.filter (· != eccWord a) } }
  else s

def State.rd32 (s : State) (a : Nat) : Nat := pair32 (s.rd a) (s.rd (a + 1))
def State.wr32 (s : State) (a : Nat) (v : Nat) : State := s.wrPair a (lo16 v) (hi16 v)

/-- Words a, a + 1, … -/
def State.rdN (s : State) (a n : Nat) : List Word := (List.range n).map (fun i => s.rd (a + i))

/-- Words from a on; whole ECC words are written as one (R366, R368). -/
def State.wrN (s : State) (a : Nat) : List Word → State
  | [] => s
  | [w] => s.wr a w
  | w :: v :: r => if a % 2 = 0 then (s.wrPair a w v).wrN (a + 2) r else (s.wr a w).wrN (a + 1) (v :: r)

/-- Record an uncorrectable word (R367). -/
def Ecc.uncorrectable (e : Ecc) (a req : Nat) : Ecc :=
  { e with ue := true, ueDma := e.ueDma || req == 7,
           uaddr := if e.ue then e.uaddr else BitVec.ofNat 24 a,
           ureq := if e.ue then e.ureq else BitVec.ofNat 3 req }

/-- A read of the ledger SRAM through the ECC logic (R367): the word, whether it was uncorrectable, the state. -/
def State.eccRead (s : State) (req a : Nat) : Word × Bool × State :=
  let s := s.wakeBank (bankOf a)
  let e := eccWord a
  if s.sram.bad.contains e then
    (s.rd a, true, { s with ecc := s.ecc.uncorrectable a req })
  else if s.sram.single.contains e then
    let b := bankOf a
    (s.rd a, false,
      { s with sram := { s.sram with single := s.sram.single.filter (· != e) },
               ecc := { s.ecc with cec := if h : b < 8 then s.ecc.cec.set b (satInc (s.ecc.cec.get ⟨b, h⟩)) h
                                          else s.ecc.cec } })
  else (s.rd a, false, s)

/-- A requestor reads n words from a on (R367): single errors in them are corrected, written back and counted, and an
uncorrectable one is recorded, the first where there are several; its bits are used as read. -/
def State.scan (s : State) (req a n : Nat) : State :=
  let hit (e : Nat) : Bool := decide (a ≤ e + 1) && decide (e < a + n)
  let t := (s.sram.single.filter hit).foldl (fun (t : State) e => (t.eccRead req e).2.2) s
  match (s.sram.bad.filter hit).min? with
  | some e => { t with ecc := t.ecc.uncorrectable (max a e) req }
  | none => t

/-- The DMA engine reads n words (requestor 7); uncorrectable bits are used as read (R367). -/
def State.dmaRead (s : State) (a : Nat) : Nat → List Word × State
  | 0 => ([], s)
  | n + 1 =>
    let r := (s.settleBank (bankOf a)).eccRead 7 a
    let t := r.2.2.dmaRead (a + 1) n
    (r.1 :: t.1, t.2)

/-! ### Hardware queues (R370 to R376) -/

def Queue.cap (q : Queue) : Nat := (q.sizeM1.toNat + 1) * 64
def Queue.depth (q : Queue) : Nat := q.words.length
def Queue.full (q : Queue) : Bool := !q.en || q.depth ≥ q.cap
def Queue.empty (q : Queue) : Bool := !q.en || q.words.isEmpty

/-- Room for n more words. -/
def Queue.room (q : Queue) (n : Nat) : Bool := q.en && q.depth + n ≤ q.cap

/-- A push (R372). -/
def Queue.push (q : Queue) (v : Word) : Queue :=
  if q.full then { q with ovr := true } else { q with words := q.words ++ [{ v := v, poison := false }] }

/-- What a pop delivers. -/
structure Popped where
  v : Word
  under : Bool
  poison : Bool
  deriving DecidableEq, Repr

/-- A pop (R372, R373). -/
def Queue.pop (q : Queue) : Popped × Queue :=
  if q.empty then (⟨q.last, true, false⟩, { q with under := true })
  else match q.words with
    | [] => (⟨q.last, true, false⟩, { q with under := true })
    | w :: r => (⟨w.v, false, w.poison⟩,
        { q with words := r, last := w.v, poisoned := q.poisoned || w.poison,
                 cec := if w.single then satInc q.cec else q.cec })

def State.queue (s : State) (n : BitVec 5) : Queue := s.que.q.get ⟨n.toNat, n.isLt⟩

def State.setQueue (s : State) (n : BitVec 5) (q : Queue) : State :=
  { s with que := { s.que with q := s.que.q.set n.toNat q n.isLt } }

/-- QUE_LPOP of a pop (R372). -/
def lpopWord (n : BitVec 5) (p : Popped) : Word :=
  bitWord 15 p.poison ||| bitWord 14 p.under ||| n.setWidth 16

def State.qpush (s : State) (n : BitVec 5) (v : Word) : State := s.setQueue n ((s.queue n).push v)

/-- The state after a pop of queue n, apart from the requestor's QUE_LPOP. -/
def State.qpop (s : State) (n : BitVec 5) : Popped × State :=
  let r := (s.queue n).pop
  let t := s.setQueue n r.2
  (r.1, if r.1.poison then { t with ecc := { t.ecc with ueQ := true } } else t)

/-- A pop by a core, with its QUE_LPOP (R372). -/
def State.corePop (s : State) (c : CoreId) (n : BitVec 5) : Word × State :=
  let r := s.qpop n
  (r.1.v, r.2.modCore c (fun k => { k with lpop := lpopWord n r.1 }))

/-- A pop by the DMA engine. -/
def State.dmaPop (s : State) (n : BitVec 5) : Popped × State :=
  let r := s.qpop n
  (r.1, { r.2 with que := { r.2.que with dmaLpop := lpopWord n r.1 } })

/-- A multi-word entry is pushed only when the queue has room for all of it (R375). -/
def State.qpushEntry (s : State) (n : BitVec 5) (ws : List Word) : Bool × State :=
  if (s.queue n).room ws.length then (true, ws.foldl (fun s w => s.qpush n w) s) else (false, s)

/-- The granules of an enabled queue. -/
def Queue.overlaps (a b : Queue) : Bool :=
  a.base.toNat < b.base.toNat + b.sizeM1.toNat + 1 && b.base.toNat < a.base.toNat + a.sizeM1.toNat + 1

/-- QUE_GSTAT.FREE (R376). -/
def Que.free (u : Que) : Nat :=
  512 - (u.q.toList.foldl (fun n q => if q.en then n + q.sizeM1.toNat + 1 else n) 0)

/-- A write of QUE_BASEn (R370). -/
def State.queBase (s : State) (n : BitVec 5) (v : Word) : State :=
  let q := s.queue n
  if q.en then s else s.setQueue n { q with base := v.setWidth 9 }

/-- A write of QUE_CFGn (R370): the enable uses the SIZEM1 of the same write. -/
def State.queCfg (s : State) (n : BitVec 5) (v : Word) : State :=
  let q := s.queue n
  let on := bit v 15
  if q.en then (if on then s else s.setQueue n { q with en := false })
  else
    let q1 := { q with sizeM1 := v.setWidth 9 }
    if !on then s.setQueue n q1
    else if q1.base.toNat + q1.sizeM1.toNat > 511 ||
        (s.que.q.toList.any (fun r => r.en && q1.overlaps r)) then
      let t := s.setQueue n q1
      { t with que := { t.que with cfgErr := true } }
    else s.setQueue n { q1 with en := true, words := [], last := 0, under := false, ovr := false,
                                poisoned := false }

/-- A condition of R376; COND = 3 is never stored. -/
def Queue.cond (q : Queue) (k : Nat) : Bool :=
  let d := if q.en then q.depth else 0
  match k with
  | 0 => d ≥ 1
  | 1 => d ≥ q.thr.toNat
  | _ => q.under || q.ovr

/-- The level of line QEVk of a core (R442). -/
def State.qevLine (s : State) (c : CoreId) (k : Fin 8) : Bool :=
  let w := (s.core c).qevsel.get k
  bit w 15 && ((s.queue (w.setWidth 5)).cond (field w 13 12) != bit w 14)

/-- IPEND as read: edge bits as held, level bits as their lines stand (R243). -/
def State.ipend (s : State) (c : CoreId) : Word :=
  ((s.core c).ipend &&& 0x00FF) |||
    (List.finRange 8).foldl (fun w k => w ||| bitWord (8 + k.val) (s.qevLine c k)) 0

/-- A gated core whose level line became pending and is masked in restarts its clock (R381). -/
def State.ungate (s : State) : State :=
  CoreId.apps.foldl (fun s c =>
    let k := s.core c
    if k.run == .gated && (s.ipend c &&& k.imask) != 0 then s.setCore c { k with run := .running } else s) s

end Sys2Proof.Machine
end

