-- ==== Sys2Proof/Machine/Crypto.lean ====
section
/-! DEFINITION. What TMON's crypto engine computes: AES-128, CCM with a 13-byte nonce and a 4-byte tag (R94), the
AES key wrap of SP 800-38F (R272 to R274), SHA-256 and ECDSA P-256 verification (R279, R281). -/

namespace Sys2Proof.Machine

open Sys2Proof

/-! ### AES-128 -/

/-- Multiplication by x in GF(2^8) with the AES polynomial. -/
def xtime (a : Byte) : Byte := if a.getLsbD 7 then (a <<< 1) ^^^ 0x1B else a <<< 1

def gmulAux : Nat → Byte → Byte → Byte → Byte
  | 0, _, _, acc => acc
  | n + 1, a, b, acc => gmulAux n (xtime a) (b >>> 1) (if b.getLsbD 0 then acc ^^^ a else acc)

def gmul (a b : Byte) : Byte := gmulAux 8 a b 0

/-- The inverse in GF(2^8), a^254, with 0 for 0. -/
def ginv (a : Byte) : Byte :=
  let a2 := gmul a a
  let a4 := gmul a2 a2
  let a8 := gmul a4 a4
  let a16 := gmul a8 a8
  let a32 := gmul a16 a16
  let a64 := gmul a32 a32
  gmul (gmul (gmul a2 a4) (gmul a8 a16)) (gmul (gmul a32 a64) (gmul a64 a64))

def rotl8 (a : Byte) (n : Nat) : Byte := (a <<< n) ||| (a >>> (8 - n))

def sbox (a : Byte) : Byte :=
  let b := ginv a
  b ^^^ rotl8 b 1 ^^^ rotl8 b 2 ^^^ rotl8 b 3 ^^^ rotl8 b 4 ^^^ 0x63

def invSbox (a : Byte) : Byte := ginv (rotl8 a 1 ^^^ rotl8 a 3 ^^^ rotl8 a 6 ^^^ 0x05)

def xorBytes (a b : List Byte) : List Byte := List.zipWith (· ^^^ ·) a b

/-- One step of the key expansion: the next round key. -/
def nextRoundKey (rcon : Byte) (k : List Byte) : List Byte :=
  let g (i : Nat) : Byte := k.getD i 0
  let t := [sbox (g 13) ^^^ rcon, sbox (g 14), sbox (g 15), sbox (g 12)]
  let w0 := xorBytes (k.take 4) t
  let w1 := xorBytes ((k.drop 4).take 4) w0
  let w2 := xorBytes ((k.drop 8).take 4) w1
  let w3 := xorBytes (k.drop 12) w2
  w0 ++ w1 ++ w2 ++ w3

def roundKeysAux : Nat → Byte → List Byte → List (List Byte)
  | 0, _, k => [k]
  | n + 1, rcon, k => k :: roundKeysAux n (xtime rcon) (nextRoundKey rcon k)

/-- The eleven round keys of a 16-byte key. -/
def roundKeys (k : List Byte) : List (List Byte) := roundKeysAux 10 1 k

/-- ShiftRows on the column-major state. -/
def shiftRows (s : List Byte) : List Byte :=
  [0, 5, 10, 15, 4, 9, 14, 3, 8, 13, 2, 7, 12, 1, 6, 11].map (fun i => s.getD i 0)

def invShiftRows (s : List Byte) : List Byte :=
  [0, 13, 10, 7, 4, 1, 14, 11, 8, 5, 2, 15, 12, 9, 6, 3].map (fun i => s.getD i 0)

def mixColumn (a b c d : Byte) : List Byte → List Byte
  | [w, x, y, z] =>
    [gmul a w ^^^ gmul b x ^^^ gmul c y ^^^ gmul d z, gmul d w ^^^ gmul a x ^^^ gmul b y ^^^ gmul c z,
     gmul c w ^^^ gmul d x ^^^ gmul a y ^^^ gmul b z, gmul b w ^^^ gmul c x ^^^ gmul d y ^^^ gmul a z]
  | s => s

def mixColumns (a b c d : Byte) (s : List Byte) : List Byte :=
  mixColumn a b c d (s.take 4) ++ mixColumn a b c d ((s.drop 4).take 4) ++
  mixColumn a b c d ((s.drop 8).take 4) ++ mixColumn a b c d (s.drop 12)

def encRounds : List (List Byte) → List Byte → List Byte
  | [], s => s
  | [k], s => xorBytes (shiftRows (s.map sbox)) k
  | k :: r, s => encRounds r (xorBytes (mixColumns 2 3 1 1 (shiftRows (s.map sbox))) k)

/-- AES-128 encryption of one block. -/
def aesEnc (key block : List Byte) : List Byte :=
  match roundKeys key with
  | [] => block
  | k :: r => encRounds r (xorBytes block k)

def decRounds : List (List Byte) → List Byte → List Byte
  | [], s => s
  | [k], s => xorBytes ((invShiftRows s).map invSbox) k
  | k :: r, s => decRounds r (mixColumns 14 11 13 9 (xorBytes ((invShiftRows s).map invSbox) k))

/-- AES-128 decryption of one block. -/
def aesDec (key block : List Byte) : List Byte :=
  match (roundKeys key).reverse with
  | [] => block
  | k :: r => decRounds r (xorBytes block k)

/-! ### CCM (R94): L = 2, M = 4 -/

/-- A list cut into blocks of 16 bytes, the last padded with zeros. -/
def blocks16 : Nat → List Byte → List (List Byte)
  | 0, _ => []
  | n + 1, l =>
    if l.isEmpty then []
    else ((l.take 16) ++ List.replicate (16 - (l.take 16).length) 0) :: blocks16 n (l.drop 16)

def cbcMac (key : List Byte) (blocks : List (List Byte)) : List Byte :=
  blocks.foldl (fun x b => aesEnc key (xorBytes x b)) (List.replicate 16 0)

/-- Counter block i. -/
def ctrBlock (nonce : List Byte) (i : Nat) : List Byte := 1 :: nonce ++ beBytes 2 i

def ctrStreamAux (key nonce : List Byte) (i : Nat) : Nat → List Byte
  | 0 => []
  | n + 1 => aesEnc key (ctrBlock nonce i) ++ ctrStreamAux key nonce (i + 1) n

/-- The encrypted tag over associated data and payload. -/
def ccmTag (key nonce aad payload : List Byte) : List Byte :=
  let flags : Byte := (if aad.isEmpty then 0 else 0x40) + 0x09
  let b0 := flags :: nonce ++ beBytes 2 payload.length
  let a := if aad.isEmpty then [] else blocks16 16 (beBytes 2 aad.length ++ aad)
  let mac := cbcMac key (b0 :: a ++ blocks16 16 payload)
  (xorBytes mac (aesEnc key (ctrBlock nonce 0))).take 4

/-- Encryption and decryption of the payload. -/
def ccmCrypt (key nonce payload : List Byte) : List Byte :=
  xorBytes payload (ctrStreamAux key nonce 1 ((payload.length + 15) / 16))

/-- Ciphertext and tag. -/
def ccmSealBytes (key nonce aad payload : List Byte) : List Byte × List Byte :=
  (ccmCrypt key nonce payload, ccmTag key nonce aad payload)

/-- The payload when the tag verifies. -/
def ccmOpenBytes (key nonce aad cipher tag : List Byte) : Option (List Byte) :=
  let p := ccmCrypt key nonce cipher
  if ccmTag key nonce aad p = tag then some p else none

/-! ### AES key unwrap (SP 800-38F KW, default initial value) -/

def unwrapStep (kek : List Byte) (t : Nat) (a : List Byte) (r : List Byte) : List Byte × List Byte :=
  let b := aesDec kek (xorBytes a (beBytes 8 t) ++ r)
  (b.take 8, b.drop 8)

/-- The six rounds over three 8-byte registers, t from 18 down to 1. -/
def unwrapRounds (kek : List Byte) : Nat → List Byte × List Byte × List Byte × List Byte →
    List Byte × List Byte × List Byte × List Byte
  | 0, x => x
  | j + 1, (a, r1, r2, r3) =>
    let x3 := unwrapStep kek (3 * j + 3) a r3
    let x2 := unwrapStep kek (3 * j + 2) x3.1 r2
    let x1 := unwrapStep kek (3 * j + 1) x2.1 r1
    unwrapRounds kek j (x1.1, x1.2, x2.2, x3.2)

/-- The 24-byte plaintext of a 32-byte blob (R273), none when the integrity check fails. -/
def kwUnwrap (kek blob : List Byte) : Option (List Byte) :=
  let r := unwrapRounds kek 6 (blob.take 8, (blob.drop 8).take 8, (blob.drop 16).take 8, blob.drop 24)
  if r.1 = List.replicate 8 0xA6 then some (r.2.1 ++ r.2.2.1 ++ r.2.2.2) else none

/-! ### SHA-256 -/

def shaK : List (BitVec 32) :=
  [0x428a2f98, 0x71374491, 0xb5c0fbcf, 0xe9b5dba5, 0x3956c25b, 0x59f111f1, 0x923f82a4, 0xab1c5ed5] ++
  [0xd807aa98, 0x12835b01, 0x243185be, 0x550c7dc3, 0x72be5d74, 0x80deb1fe, 0x9bdc06a7, 0xc19bf174] ++
  [0xe49b69c1, 0xefbe4786, 0x0fc19dc6, 0x240ca1cc, 0x2de92c6f, 0x4a7484aa, 0x5cb0a9dc, 0x76f988da] ++
  [0x983e5152, 0xa831c66d, 0xb00327c8, 0xbf597fc7, 0xc6e00bf3, 0xd5a79147, 0x06ca6351, 0x14292967] ++
  [0x27b70a85, 0x2e1b2138, 0x4d2c6dfc, 0x53380d13, 0x650a7354, 0x766a0abb, 0x81c2c92e, 0x92722c85] ++
  [0xa2bfe8a1, 0xa81a664b, 0xc24b8b70, 0xc76c51a3, 0xd192e819, 0xd6990624, 0xf40e3585, 0x106aa070] ++
  [0x19a4c116, 0x1e376c08, 0x2748774c, 0x34b0bcb5, 0x391c0cb3, 0x4ed8aa4a, 0x5b9cca4f, 0x682e6ff3] ++
  [0x748f82ee, 0x78a5636f, 0x84c87814, 0x8cc70208, 0x90befffa, 0xa4506ceb, 0xbef9a3f7, 0xc67178f2]

def shaInit : List (BitVec 32) :=
  [0x6a09e667, 0xbb67ae85, 0x3c6ef372, 0xa54ff53a, 0x510e527f, 0x9b05688c, 0x1f83d9ab, 0x5be0cd19]

def shaWords : List Byte → List (BitVec 32)
  | a :: b :: c :: d :: r => BitVec.ofNat 32 (beNat [a, b, c, d]) :: shaWords r
  | _ => []

/-- The schedule, newest word first. -/
def shaExpand : Nat → List (BitVec 32) → List (BitVec 32)
  | 0, w => w
  | n + 1, w =>
    let x := w.getD 1 0
    let y := w.getD 14 0
    let s1 := x.rotateRight 17 ^^^ x.rotateRight 19 ^^^ (x >>> 10)
    let s0 := y.rotateRight 7 ^^^ y.rotateRight 18 ^^^ (y >>> 3)
    shaExpand n ((s1 + w.getD 6 0 + s0 + w.getD 15 0) :: w)

def shaRound (h : List (BitVec 32)) (kw : BitVec 32) : List (BitVec 32) :=
  match h with
  | [a, b, c, d, e, f, g, x] =>
    let s1 := e.rotateRight 6 ^^^ e.rotateRight 11 ^^^ e.rotateRight 25
    let ch := (e &&& f) ^^^ (~~~e &&& g)
    let t1 := x + s1 + ch + kw
    let s0 := a.rotateRight 2 ^^^ a.rotateRight 13 ^^^ a.rotateRight 22
    let mj := (a &&& b) ^^^ (a &&& c) ^^^ (b &&& c)
    [t1 + s0 + mj, a, b, c, d + t1, e, f, g]
  | _ => h

def shaBlock (h : List (BitVec 32)) (block : List Byte) : List (BitVec 32) :=
  let w := (shaExpand 48 (shaWords block).reverse).reverse
  let r := (List.zipWith (· + ·) shaK w).foldl shaRound h
  List.zipWith (· + ·) h r

def shaBlocks : Nat → List (BitVec 32) → List Byte → List (BitVec 32)
  | 0, h, _ => h
  | n + 1, h, l => shaBlocks n (shaBlock h (l.take 64)) (l.drop 64)

def sha256 (msg : List Byte) : List Byte :=
  let n := msg.length
  let pad := (119 - n % 64) % 64
  let l := msg ++ (0x80 :: List.replicate pad 0) ++ beBytes 8 (8 * n)
  (shaBlocks ((n + 9 + 63) / 64) shaInit l).foldr (fun w t => beBytes 4 w.toNat ++ t) []

/-! ### ECDSA over P-256 -/

def p256P : Nat := 0xffffffff00000001000000000000000000000000ffffffffffffffffffffffff
def p256N : Nat := 0xffffffff00000000ffffffffffffffffbce6faada7179e84f3b9cac2fc632551
def p256B : Nat := 0x5ac635d8aa3a93e7b3ebbd55769886bc651d06b0cc53b0f63bce3c3e27d2604b
def p256Gx : Nat := 0x6b17d1f2e12c4247f8bce6e563a440f277037d812deb33a0f4a13945d898c296
def p256Gy : Nat := 0x4fe342e2fe1a7f9b8ee7eb4a7c0f9e162bce33576b315ececbb6406837bf51f5

/-- b^e mod m over n bits of e. -/
def modPow (m : Nat) : Nat → Nat → Nat → Nat → Nat
  | 0, _, _, acc => acc
  | n + 1, b, e, acc => modPow m n (b * b % m) (e / 2) (if e % 2 = 1 then acc * b % m else acc)

def modInv (m a : Nat) : Nat := modPow m 256 (a % m) (m - 2) 1

def subP (a b : Nat) : Nat := (a + p256P - b % p256P) % p256P

/-- An affine point; none is the point at infinity. -/
abbrev Point := Option (Nat × Nat)

def pointAdd : Point → Point → Point
  | none, q => q
  | p, none => p
  | some (x1, y1), some (x2, y2) =>
    if x1 = x2 ∧ (y1 + y2) % p256P = 0 then none
    else
      let l := if x1 = x2 ∧ y1 = y2
        then (subP (3 * x1 * x1 % p256P) 3) * modInv p256P (2 * y1) % p256P
        else subP y2 y1 * modInv p256P (subP x2 x1) % p256P
      let x3 := subP (subP (l * l % p256P) x1) x2
      some (x3, subP (l * subP x1 x3 % p256P) y1)

def pointMul : Nat → Nat → Point → Point → Point
  | 0, _, _, acc => acc
  | n + 1, k, p, acc => pointMul n (k / 2) (pointAdd p p) (if k % 2 = 1 then pointAdd acc p else acc)

def onCurve (x y : Nat) : Bool :=
  x < p256P && y < p256P && y * y % p256P == (subP (x * x % p256P * x % p256P) (3 * x) + p256B) % p256P

/-- Verification of signature r, s over a digest under a public key of 64 bytes (R281). -/
def ecdsaVerify (pub digest sig : List Byte) : Bool :=
  let x := beNat (pub.take 32)
  let y := beNat (pub.drop 32)
  let r := beNat (sig.take 32)
  let t := beNat (sig.drop 32)
  if onCurve x y && 0 < r && r < p256N && 0 < t && t < p256N then
    let w := modInv p256N t
    let u1 := beNat digest * w % p256N
    let u2 := r * w % p256N
    match pointAdd (pointMul 256 u1 (some (p256Gx, p256Gy)) none) (pointMul 256 u2 (some (x, y)) none) with
    | none => false
    | some (px, _) => px % p256N == r
  else false

end Sys2Proof.Machine
end

