-- ==== Sys2Proof/Machine/Flags.lean ====
section
/-! DEFINITION. Exact results, saturation, rounding and the sticky bits of the Facet cores (R229 to R231, R252 to
R256). Every function computes the exact mathematical value first and narrows it once. -/

namespace Sys2Proof.Machine

open Sys2Proof

/-- CST.RND: 0 truncate, 1 round half up, 2 convergent (R226). -/
abbrev Rnd := BitVec 2

/-- A narrowed result and whether the exact value did not fit (OV) or the divisor was zero (DZ). -/
structure Narrow (w : Nat) where
  val : BitVec w
  ov : Bool
  dz : Bool
  deriving DecidableEq, Repr

/-- ⌊n / d⌋ rounded as R231 says, for d > 0, with n − q·d compared against d / 2. -/
def roundDiv (rnd : Rnd) (n : Int) (d : Nat) : Int :=
  let q := n.fdiv (d : Int)
  let r := n - q * (d : Int)
  if rnd = 1 then (if 2 * r ≥ (d : Int) then q + 1 else q)
  else if rnd = 2 then
    (if 2 * r > (d : Int) then q + 1
     else if 2 * r = (d : Int) ∧ q % 2 ≠ 0 then q + 1 else q)
  else q

/-- The value as a rational with a negative or positive divisor, rounded (R254). -/
def roundQuot (rnd : Rnd) (n d : Int) : Int :=
  if d < 0 then roundDiv rnd (-n) d.natAbs else roundDiv rnd n d.natAbs

/-- A signed destination of width w: saturate with SAT = 1, keep the low bits with SAT = 0 (R230). -/
def narrowS (w : Nat) (sat : Bool) (v : Int) : Narrow w :=
  let hi : Int := (2 : Int) ^ (w - 1) - 1
  let lo : Int := -((2 : Int) ^ (w - 1))
  if v > hi then ⟨if sat then BitVec.ofInt w hi else BitVec.ofInt w v, true, false⟩
  else if v < lo then ⟨if sat then BitVec.ofInt w lo else BitVec.ofInt w v, true, false⟩
  else ⟨BitVec.ofInt w v, false, false⟩

/-- An unsigned 16-bit destination: all ones or 0 with SAT = 1 (R230, R252). -/
def narrowU (sat : Bool) (v : Int) : Narrow 16 :=
  if v > 65535 then ⟨if sat then 0xFFFF else BitVec.ofInt 16 v, true, false⟩
  else if v < 0 then ⟨if sat then 0x0000 else BitVec.ofInt 16 v, true, false⟩
  else ⟨BitVec.ofInt 16 v, false, false⟩

/-- A result that never sets a sticky bit. -/
def plain {w : Nat} (v : BitVec w) : Narrow w := ⟨v, false, false⟩

/-- 1 or 0 of a comparison (R252). -/
def flagWord (b : Bool) : Word := if b then 1 else 0

/-- The signed 8-bit shift amount of R253. -/
def shiftAmount (b : Word) : Int := (b.setWidth 8).toInt

/-- LSH (R253). -/
def shiftLogical (a : Word) (s : Int) : Word :=
  if s ≥ 16 then 0 else if s ≥ 0 then a <<< s.toNat else if s > -16 then a >>> s.natAbs else 0

/-- ASH on a width-w value, and SHA with w = 40 (R253, R256): the right shift by w or more ignores RND. -/
def shiftArith (w : Nat) (sat : Bool) (rnd : Rnd) (a : BitVec w) (s : Int) : Narrow w :=
  if s ≥ 0 then narrowS w sat (a.toInt * 2 ^ s.toNat)
  else if s > -(w : Int) then plain (BitVec.ofInt w (roundDiv rnd a.toInt (2 ^ s.natAbs)))
  else plain (if a.toInt < 0 then BitVec.ofInt w (-1) else 0)

/-- DIV (R254, R230). -/
def divSigned (sat : Bool) (rnd : Rnd) (a b : Word) : Narrow 16 :=
  if b = 0 then
    ⟨if a.toInt > 0 then 0x7FFF else if a.toInt < 0 then 0x8000 else 0, false, true⟩
  else narrowS 16 sat (roundQuot rnd a.toInt b.toInt)

/-- DIVU (R254): a non-zero dividend over zero gives 0x7FFF. -/
def divUnsigned (rnd : Rnd) (a b : Word) : Narrow 16 :=
  if b = 0 then ⟨if a = 0 then 0 else 0x7FFF, false, true⟩
  else plain (BitVec.ofInt 16 (roundDiv rnd (a.toNat : Int) b.toNat))

/-- NEG, and ABS of a negative operand (R230). -/
def negate (sat : Bool) (b : Word) : Narrow 16 := narrowS 16 sat (-b.toInt)

def absolute (sat : Bool) (b : Word) : Narrow 16 :=
  narrowS 16 sat (if b.toInt < 0 then -b.toInt else b.toInt)

/-- The fractional product of R229 at 40 bits. -/
def fracProduct (x y : Word) : Acc := BitVec.ofInt 40 (x.toInt * y.toInt * 2)

/-- The integer products of R229. -/
def intProduct (x y : Word) : Acc := BitVec.ofInt 40 (x.toInt * y.toInt)
def uintProduct (x y : Word) : Acc := BitVec.ofNat 40 (x.toNat * y.toNat)

/-- A 40-bit addition with R230. -/
def accAdd (sat : Bool) (a : Acc) (v : Int) : Narrow 40 := narrowS 40 sat (a.toInt + v)

/-- MVH: ACn / 2^16 rounded, then saturated (R231, R256). -/
def extractHigh (sat : Bool) (rnd : Rnd) (a : Acc) : Narrow 16 :=
  narrowS 16 sat (roundDiv rnd a.toInt 65536)

/-- MVD: saturates exactly when bits [39:31] are not all equal (R231, R256). -/
def extractDouble (sat : Bool) (a : Acc) : Narrow 32 := narrowS 32 sat a.toInt

/-- rnd(n, d) of R185 on naturals. -/
def rnd185 (n d : Nat) : Nat :=
  let q := n / d
  let r := n - q * d
  if 2 * r > d ∨ (2 * r = d ∧ q % 2 = 1) then q + 1 else q

end Sys2Proof.Machine
end

