-- ==== Sys2Proof/Machine/Gate.lean ====
section
/-! DEFINITION. Frame plans, the region record, the transmit gate and its duty store, and the lengths of packets on
air (R34 to R39, R98, R171 to R180). -/

namespace Sys2Proof.Machine

open Sys2Proof

/-! ### Frame plans (R34 to R37) -/

/-- A slot word (R35). -/
structure SlotWord where
  role : Nat
  cls : Nat
  hopwin : Nat
  peven : Nat
  podd : Nat
  rsvd : Nat
  deriving DecidableEq, Repr

def SlotWord.ofWord (w : Word) : SlotWord :=
  ⟨field w 15 12, field w 11 10, field w 9 8, field w 7 6, field w 5 4, field w 3 0⟩

def SlotWord.toWord (x : SlotWord) : Word :=
  place x.role 12 ||| place x.cls 10 ||| place x.hopwin 8 ||| place x.peven 6 ||| place x.podd 4

/-- Role codes of R24. -/
def roleX : Nat := 0
def roleB : Nat := 1
def roleK : Nat := 2
def roleU : Nat := 3
def roleD : Nat := 4
def roleP : Nat := 5
def roleC : Nat := 6
def roleW : Nat := 7

def planSlot (p : Memory) (s : Nat) : SlotWord := SlotWord.ofWord (p.get0 (1 + s))
def planTx (p : Memory) (s i : Nat) : Word := p.get0 (0x10 + 8 * s + i)
def planMap (p : Memory) (s k : Nat) : Word := p.get0 (0x100 + 128 * s + k)

/-- Bins of a channel class or of a lane WIDTH. -/
def binsOf : Nat → Nat
  | 0 => 1
  | 1 => 2
  | _ => 4

/-- A transmit entry read from a plan (R36). -/
structure TxEntry where
  en : Bool
  win : Bool
  fec : Bool
  bin : Nat
  buf : Nat
  len : Nat
  pwr : Word
  tag : Word
  deriving DecidableEq, Repr

def TxEntry.ofWords (w0 w1 w2 w3 w4 w5 : Word) : TxEntry :=
  ⟨bit w0 15, bit w0 14, bit w0 13, field w0 7 0, w1.toNat + 65536 * field w2 7 0, field w3 8 0, w4, w5⟩

def planEntry (p : Memory) (s : Nat) : TxEntry :=
  TxEntry.ofWords (planTx p s 0) (planTx p s 1) (planTx p s 2) (planTx p s 3) (planTx p s 4) (planTx p s 5)

/-- A lane map word (R37). -/
structure LaneMap where
  en : Bool
  win : Bool
  width : Nat
  fec : Bool
  bin : Nat
  deriving DecidableEq, Repr

def LaneMap.ofWord (w : Word) : LaneMap := ⟨bit w 15, bit w 14, field w 13 12, bit w 11, field w 7 0⟩

def LaneMap.toWord (x : LaneMap) : Word :=
  bitWord 15 x.en ||| bitWord 14 x.win ||| place x.width 12 ||| bitWord 11 x.fec ||| place x.bin 0

/-- The first slot of the W run that holds W slot s, and its number of slots (R31); `last` is the last slot that
may be W (6 in frame 0 of a Cycle). -/
def wFirst (p : Memory) : Nat → Nat
  | 0 => 0
  | s + 1 => if (planSlot p s).role = roleW then wFirst p s else s + 1

def wLast (p : Memory) (last : Nat) : Nat → Nat → Nat
  | 0, s => s
  | n + 1, s => if s + 1 ≤ last ∧ (planSlot p (s + 1)).role = roleW then wLast p last n (s + 1) else s

def wRunLen (p : Memory) (last s : Nat) : Nat := wLast p last 8 s - s + 1

/-! ### On-air times and windows (R26 to R31, R98) -/

def symbols (n : Nat) (fec : Bool) : Nat := if fec then 62 + 8 * n else 56 + 4 * n

/-- Symbols as Ticks, rounded up (R171). -/
def symTicks (cls n : Nat) : Nat := if cls = 0 then 2 * n else if cls = 1 then n else (n + 1) / 2

def packetTicks (cls n : Nat) (fec : Bool) : Nat := symTicks cls (symbols n fec)

def wRunTicks (n : Nat) : Nat := (n - 1) * 1200 + 1112

/-- The window of a role in symbols (R98). X and C slots hold no packet. -/
def windowSymbols (role cls : Nat) : Nat :=
  let per (t : Nat) : Nat := if cls = 0 then t / 2 else if cls = 1 then t else 2 * t
  if role = roleB ∨ role = roleK then per 360
  else if role = roleU then per 1112
  else if role = roleD then per (if cls = 0 then 452 else if cls = 1 then 436 else 756)
  else if role = roleP then per 548
  else 0

/-- The class maximum of LEN (R79). -/
def classMax (cls : Nat) : Nat := if cls = 0 then 24 else if cls = 1 then 64 else 128

def packetFits (role cls n : Nat) (fec : Bool) : Bool :=
  n ≤ classMax cls + 16 && symbols n fec ≤ windowSymbols role cls

/-- The largest packet that fits a window, searched downwards (R459). -/
def largestFit (role cls : Nat) (fec : Bool) : Nat → Nat
  | 0 => 0
  | n + 1 => if packetFits role cls (n + 1) fec then n + 1 else largestFit role cls fec n

/-! ### Sums of levels (R141, R143) -/

/-- The greatest t < 2^k + acc with t^40 ≤ x. -/
def root40 (x : Nat) : Nat → Nat → Nat
  | 0, acc => acc
  | k + 1, acc => if (acc + 2 ^ k) ^ 40 ≤ x then root40 x k (acc + 2 ^ k) else root40 x k acc

/-- 10^(−d/40), a level d steps of 0.25 dB down, in units of 10^−9. -/
def powerRatio (d : Nat) : Nat := if 360 < d then 0 else root40 (10 ^ (360 - d)) 30 0

/-- The linear sum of levels in 0.25 dB (R141, R143), to the nearest step: at most four bins, so at most 24 steps above the
highest. -/
def sumLevels (l : List Int) : Int :=
  match l with
  | [] => -1023
  | x :: r =>
    let m := r.foldl max x
    let total := l.foldl (fun n v => n + powerRatio (m - v).natAbs) 0
    let up := ((List.range 25).filter (fun k => decide (1 ≤ k) && decide (10 ^ (2 * k - 1 + 720) ≤ total ^ 80))).length
    m + (up : Int)

/-- The energy compared in clear-channel assessment: the larger of the two antennas' channel energies (R141). -/
def ccaEnergy (c : Cca) : Int := max (sumLevels c.a) (sumLevels c.b)

/-! ### Region record (R176) -/

structure Range where
  flo : Nat
  fhi : Nat
  pmax : Int
  lbt : Bool
  duty : Nat
  dwin : Nat
  lbtthr : Int
  lbtmin : Nat
  txmax : Nat
  deriving DecidableEq, Repr

def regionN (ws : List Word) : Nat := field (ws.getD 0 0) 3 0
def regionExt (ws : List Word) : Bool := bit (ws.getD 0 0) 11

def regionRange (ws : List Word) (j : Nat) : Range :=
  let w (i : Nat) : Word := ws.getD (2 + 10 * j + i) 0
  ⟨pair32 (w 0) (place (field (w 1) 7 0) 0), pair32 (w 2) (place (field (w 3) 7 0) 0), sword (w 4), bit (w 5) 15,
    field (w 5) 9 0, field (w 6) 11 0, sword (w 7), (w 8).toNat, (w 9).toNat⟩

/-- The record in the gate: none until one is locked and loaded (R178). -/
def State.region (s : State) : Option (List Word) := if s.tx.regLock then s.otp.region else none

/-- Lower and upper edge of a channel in units of 100 Hz (R172). -/
def chanLo (cen bin : Nat) : Int := (cen : Int) + ((bin : Int) - 128) * 125
def chanHi (cen bin w : Nat) : Int := (cen : Int) + ((bin : Int) - 128 + (w : Int)) * 125

/-- Twice the channel centre in units of 100 Hz, that is in units of 50 Hz (R84). -/
def chanCentre (cen bin w : Nat) : Int := 2 * (cen : Int) + (2 * ((bin : Int) - 128) + (w : Int)) * 125

/-- The range that contains the whole channel (R172). -/
def rangeOf (ws : List Word) (cen bin w : Nat) : Option Nat :=
  (List.range (regionN ws)).find? (fun j =>
    let r := regionRange ws j
    decide ((r.flo : Int) ≤ chanLo cen bin) && decide (chanHi cen bin w ≤ (r.fhi : Int)))

def State.cen (s : State) (win : Bool) : Nat := if win then s.rxw.cenAct1.toNat else s.rxw.cenAct0.toNat

/-- The centre as set, which is in force from the next slot boundary on: plans and reservations of coming frames run
under it (R139; log entry 62). -/
def State.cenNew (s : State) (win : Bool) : Nat := if win then s.rxw.cen1.toNat else s.rxw.cen0.toNat

/-- CRC-16, polynomial 0x1021, not reflected, no final XOR (R91). -/
def crc16Bit (c : Word) : Word := if c.getLsbD 15 then (c <<< 1) ^^^ 0x1021 else c <<< 1

def crc16Byte (c : Word) (b : Byte) : Word :=
  let c := c ^^^ ((b.setWidth 16) <<< 8)
  crc16Bit (crc16Bit (crc16Bit (crc16Bit (crc16Bit (crc16Bit (crc16Bit (crc16Bit c)))))))

def crc16 (init : Word) (l : List Byte) : Word := l.foldl crc16Byte init

/-- R177: may the record be locked? -/
def regionValid (ws : List Word) : Bool :=
  let n := regionN ws
  let ext := regionExt ws
  let w (i : Nat) : Word := ws.getD i 0
  let rs := (List.range n).map (regionRange ws)
  let vctl := field (w 1) 11 0
  ws.length == 83 &&
  w 82 == crc16 0xFFFF (bytesOfWords (ws.take 82)) &&
  field (w 0) 15 12 == 1 && field (w 0) 10 4 == 0 && 1 ≤ n && n ≤ 8 && field (w 1) 15 12 == 0 &&
  (List.range 8).all (fun j =>
    let b (i : Nat) : Word := w (2 + 10 * j + i)
    if j < n then
      field (b 1) 15 8 == 0 && field (b 3) 15 8 == 0 && field (b 5) 14 10 == 0 && field (b 6) 15 12 == 0
    else (List.range 10).all (fun i => b i == 0)) &&
  rs.all (fun r =>
    1360000 ≤ r.flo && r.fhi ≤ 9600000 && r.flo < r.fhi && 1 ≤ r.duty && r.duty ≤ 1000 && 1 ≤ r.dwin &&
    r.dwin ≤ 3600 && r.lbtmin ≤ 5000 && 1 ≤ r.txmax &&
    (if ext then decide (-40 ≤ r.pmax) && decide (r.pmax ≤ 160) else decide (-80 ≤ r.pmax) && decide (r.pmax ≤ 80))) &&
  (if ext then vctl != 0 else vctl == 0) &&
  (List.range n).all (fun i => (List.range n).all (fun j =>
    i == j || (regionRange ws i).fhi ≤ (regionRange ws j).flo || (regionRange ws j).fhi ≤ (regionRange ws i).flo))

/-! ### Plan validation (R39) -/

/-- Maximum single transmission time of a range, in 0.1 Tick: TXMAX ms is 9.6 Ticks each. -/
def overTxmax (r : Range) (ticks : Nat) : Bool := ticks * 10 > r.txmax * 96

/-- On-air Ticks of a slot's transmit entry: its W run, or a packet of length LEN. -/
def planTicks (p : Memory) (s : Nat) : Nat :=
  if (planSlot p s).role == roleW then wRunTicks (wRunLen p 7 s)
  else packetTicks (planSlot p s).cls (planEntry p s).len (planEntry p s).fec

/-- The first ground of R39 on which a transmit channel of a window no longer stands under a new centre (R139). -/
def channelFault (region : Option (List Word)) (win : Bool) (cen : Nat) (p : Memory) : Option Nat :=
  (List.range 8).findSome? (fun s =>
    let e := planEntry p s
    if e.en && e.win == win then
      match region.bind (fun ws => (rangeOf ws cen e.bin (binsOf (planSlot p s).cls)).map (regionRange ws)) with
      | none => some 6
      | some r => if r.pmax < sword e.pwr then some 7 else if overTxmax r (planTicks p s) then some 8 else none
    else none)

/-- Grounds for rejection, numbered in the order of R39's list; none = the plan passes. `cen` gives the window
centres against which the channels are placed. R39 has no ground against role B or K in slots 2 to 7 (R24) nor against
an enabled entry in a slot that does not transmit (R36): such a plan passes (DESIGN CHOICE, log entry 64). A header whose
version is not 1 (R34) is refused as the first ground, though R39 speaks of its reserved fields only (DESIGN CHOICE,
log entry 24). -/
def planFault (region : Option (List Word)) (cen : Bool → Nat) (p : Memory) : Option Nat :=
  let slots := List.range 8
  let sw (s : Nat) := planSlot p s
  let tx (s : Nat) := planEntry p s
  let on := slots.filter (fun s => (tx s).en)
  let rng (s : Nat) : Option Range :=
    match region with
    | none => none
    | some ws =>
      match rangeOf ws (cen (tx s).win) (tx s).bin (binsOf (sw s).cls) with
      | none => none
      | some j => some (regionRange ws j)
  let isW (s : Nat) : Bool := (sw s).role == roleW
  if field (p.get0 0) 15 12 ≠ 1 ∨ field (p.get0 0) 11 0 ≠ 0 ∨
     p.any (fun c => (0x9 ≤ c.1 && c.1 < 0x10) || (0x50 ≤ c.1 && c.1 < 0x100)) ∨
     slots.any (fun s => (sw s).rsvd != 0 || (sw s).peven == 3 || (sw s).podd == 3 || (sw s).hopwin == 3 ||
       (((sw s).role != roleB && (sw s).role != roleK) && (sw s).hopwin != 0) ||
       ((sw s).role != roleP && ((sw s).peven != 0 || (sw s).podd != 0)) ||
       field (planTx p s 0) 12 8 != 0 || field (planTx p s 2) 15 8 != 0 || field (planTx p s 3) 15 9 != 0 ||
       planTx p s 6 != 0 || planTx p s 7 != 0) ∨
     p.any (fun c => 0x100 ≤ c.1 && c.1 < 0x500 && field c.2 10 8 != 0) then some 1
  else if (sw 0).role ≠ roleB ∨ (sw 1).role ≠ roleK then some 2
  else if slots.any (fun s => (sw s).role == roleC || (sw s).role > 7) then some 3
  else if slots.any (fun s => (sw s).cls == 3) then some 4
  else if on.any (fun s => (tx s).bin % binsOf (sw s).cls != 0) ||
      p.any (fun c => 0x100 ≤ c.1 && c.1 < 0x500 && bit c.2 15 &&
        (field c.2 13 12 == 3 || field c.2 7 0 % binsOf (field c.2 13 12) != 0)) then some 5
  else if on.any (fun s => rng s == none) then some 6
  else if on.any (fun s => match rng s with | some r => decide (r.pmax < sword (tx s).pwr) | none => true) then some 7
  else if on.any (fun s => match rng s with | some r => overTxmax r (planTicks p s) | none => true) then some 8
  else if on.any (fun s => !isW s && !packetFits (sw s).role (sw s).cls (tx s).len (tx s).fec) then some 9
  else if on.any (fun s => isW s && wFirst p s != s) then some 10
  else if (tx 0).win || (tx 1).win then some 11
  else none

/-! ### Duty store and gate test (R172, R179, R180) -/

/-- LIMIT = ⌊DUTY × DWIN × 48 / 5⌋ Ticks. -/
def dutyLimit (r : Range) : Int := (r.duty * r.dwin * 48 / 5 : Nat)

/-- The cold-start fill of one frame: ⌈DUTY × 48 / 5⌉. -/
def dutyFill (r : Range) : Nat := (r.duty * 48 + 4) / 5

/-- How many of the frames lo to hi (inclusive) lie in c − 3,600 to c − 1. -/
def fillFrames (c lo hi : Int) : Nat := (min hi (c - 1) - max lo (c - 3600) + 1).toNat

/-- The charges of range j over the frames lo to hi. -/
def Gate.charged (g : Gate) (j : Nat) (lo hi : Int) : Nat :=
  (g.used.filter (fun x => x.range == j && decide (lo ≤ x.frame) && decide (x.frame ≤ hi))).foldl
    (fun n x => n + x.ticks) 0

/-- BUDGET of range j in frame f (R172). -/
def Gate.budget (g : Gate) (r : Range) (j : Nat) (f : Int) : Int :=
  let lo := f - (r.dwin : Int)
  let fill := if g.filled then fillFrames g.coldC lo f * dutyFill r else 0
  dutyLimit r - ((fill + g.charged j lo f : Nat) : Int)

/-- Add Ticks to used[r][f] (R174). -/
def Gate.charge (g : Gate) (j : Nat) (f : Int) (t : Nat) : Gate :=
  if g.used.any (fun x => x.range == j && x.frame == f) then
    { g with used := g.used.map (fun x => if x.range = j ∧ x.frame = f then { x with ticks := x.ticks + t } else x) }
  else { g with used := g.used ++ [⟨j, f, t⟩] }

/-- Correct a charge of t Ticks to u Ticks (R174). -/
def Gate.correct (g : Gate) (j : Nat) (f : Int) (t u : Nat) : Gate :=
  { g with used := g.used.map (fun x => if x.range = j ∧ x.frame = f then { x with ticks := x.ticks - t + u } else x) }

/-- The cold-start fill with frame c (R180). -/
def Gate.fill (_g : Gate) (c : Int) : Gate := { filled := true, coldC := c, used := [] }

/-- The frame counter jumps by d: the store's frames stand relative to the current one (R179). -/
def Gate.shift (g : Gate) (d : Int) : Gate :=
  { g with coldC := g.coldC + d, used := g.used.map (fun x => { x with frame := x.frame + d }) }

/-- The store holds frames f − 3,600 to f + 1 (R179). -/
def Gate.advance (g : Gate) (f : Int) : Gate := { g with used := g.used.filter (fun x => decide (f - 3600 ≤ x.frame)) }

/-- BUDGET as the result entry reports it (R175). -/
def budgetWord (r : Range) (b : Int) : Word :=
  if r.duty = 1000 then 0xFFFF else if b < 0 then 0 else if b > 65535 then 0xFFFF else BitVec.ofInt 16 b

/-- The gate test (R172). -/
def Gate.passes (g : Gate) (r : Range) (j : Nat) (f : Int) (t : Nat) : Bool :=
  r.duty == 1000 || decide ((t : Int) ≤ g.budget r j f)

/-! ### The transmit result entry (R175) -/

def TxOutcome.code : TxOutcome → Nat
  | .sent => 0 | .synlate => 1 | .gated => 2 | .blocked => 3 | .late => 4 | .cutOff => 5

def resultEntry (o : TxOutcome) (slot : Nat) (range : Option Nat) (wrun : Bool) (tag : Word) (frame : Nat)
    (value : Word) (onair : Nat) (budget : Word) : List Word :=
  [place o.code 13 ||| place slot 10 ||| place (range.getD 0) 7 ||| bitWord 6 wrun, tag, lo16 frame, value,
    BitVec.ofNat 16 onair, budget]

/-- Push a transmit result entry on TX_CFG.RESQ, or count it in TX_RESDROP. -/
def State.pushResult (s : State) (ws : List Word) : State :=
  let r := s.qpushEntry (s.tx.cfgAct.setWidth 5) ws
  if r.1 then r.2 else { r.2 with tx := { r.2.tx with resDrop := satInc r.2.tx.resDrop } }

end Sys2Proof.Machine
end

