-- ==== Sys2Proof/Machine/Phy.lean ====
section
/-! DEFINITION. Field Link framing: sync and wake words, whitening, coding, symbols, headers, nonces, the immediate
ack and the hop index (04_field_link_phy). -/

namespace Sys2Proof.Machine

open Sys2Proof

/-! ### Sync and wake words (R86, R99) -/

/-- Parity rows 1 to 12. -/
def golayRows : List Nat :=
  [0xDC5, 0xB8B, 0x717, 0xE2D, 0xC5B, 0x8B7, 0x16F, 0x2DD, 0x5B9, 0xB71, 0x6E3, 0xFFE]

/-- XOR of row i for every set bit [12 − i]. -/
def golayParity (d : BitVec 12) : Nat :=
  ((List.range 12).foldl (fun p i => if d.getLsbD (11 - i) then p ^^^ golayRows.getD i 0 else p) 0)

def golayWord (d : BitVec 12) : Nat := d.toNat * 4096 + golayParity d

def syncWord (d : BitVec 12) : Nat := golayWord d ^^^ 0x3B5C94
def wakeWord (c : BitVec 12) : Nat := golayWord c ^^^ 0xA62F59

/-! ### Bits, whitening, coding, symbols (R81 to R83, R85, R92, R93) -/

/-- Bits of a number, most significant first. -/
def bitsMsb (n v : Nat) : List Bool := (List.range n).map (fun i => v.testBit (n - 1 - i))

def bitsOfBytes (l : List Byte) : List Bool := l.flatMap (fun b => bitsMsb 8 b.toNat)

/-- The whitening sequence: `st` holds a(n) to a(n+8). -/
def whitenSeq : Nat → List Bool → List Bool
  | 0, _ => []
  | n + 1, st => st.getD 0 false :: whitenSeq n (st.drop 1 ++ [st.getD 0 false != st.getD 5 false])

def whiten (bits : List Bool) : List Bool :=
  List.zipWith (· != ·) bits (whitenSeq bits.length (List.replicate 9 true))

/-- The rate-1/2 code of R93; `h` holds the previous six bits, newest first. -/
def convolve : List Bool → List Bool → List Bool
  | _, [] => []
  | h, b :: r =>
    let g (i : Nat) : Bool := h.getD (i - 1) false
    (b ^^ g 1 ^^ g 2 ^^ g 3 ^^ g 6) :: (b ^^ g 2 ^^ g 3 ^^ g 5 ^^ g 6) :: convolve (b :: h.take 5) r

def fecCode (bits : List Bool) : List Bool := convolve [] (bits ++ List.replicate 6 false)

/-- 4-GFSK pairs (R83). -/
def symbols4 : List Bool → List Int
  | a :: b :: r => (if a then (if b then -3 else -1) else (if b then 3 else 1)) :: symbols4 r
  | _ => []

/-- Two-level signalling (R83). -/
def symbols2 (bits : List Bool) : List Int := bits.map (fun b => if b then 3 else -3)

/-- Alternating preamble symbols, starting with +3 (R85). -/
def preamble (n : Nat) : List Int := (List.range n).map (fun i => if i % 2 = 0 then 3 else -3)

/-- The symbols of a packet on air (R80). -/
def packetSymbols (district : BitVec 12) (fec : Bool) (bytes : List Byte) : List Int :=
  let w := whiten (bitsOfBytes bytes)
  preamble 32 ++ symbols2 (bitsMsb 24 (syncWord district)) ++ symbols4 (if fec then fecCode w else w)

/-! ### Modulation (R82) -/

/-- What a class puts on the carrier: baud, deviations in Hz, and ten times the BT product of the Gaussian filter. -/
structure Modulation where
  baud : Nat
  outer : Nat
  inner : Nat
  bt10 : Nat
  deriving DecidableEq, Repr

def modulation (cls : Nat) : Modulation :=
  if cls = 0 then ⟨4800, 2400, 800, 5⟩ else if cls = 1 then ⟨9600, 4800, 1600, 5⟩ else ⟨19200, 9600, 3200, 5⟩

/-- The deviation of a symbol in Hz: ±3 outer, ±1 inner (R83). -/
def deviation (cls : Nat) (x : Int) : Int := x * ((modulation cls).inner : Int)

/-! ### The receiver undoes symbols, coding and whitening (R80, R83, R92, R93) -/

/-- The bits of a 4-GFSK symbol, sliced at two thirds of the measured outer deviation (log entry 66). -/
def sliceBits (outer : Nat) (d : Int) : List Bool := [decide (d < 0), decide (2 * outer < 3 * d.natAbs)]

/-- The encoder's input for a coded stream, and whether the stream is the encoder's output for it; `h` holds the
previous six bits, newest first. -/
def deconvolve : List Bool → List Bool → List Bool × Bool
  | h, x :: y :: r =>
    let g (i : Nat) : Bool := h.getD (i - 1) false
    let b := x ^^ g 1 ^^ g 2 ^^ g 3 ^^ g 6
    let t := deconvolve (b :: h.take 5) r
    (b :: t.1, (y == (b ^^ g 2 ^^ g 3 ^^ g 5 ^^ g 6)) && t.2)
  | _, _ => ([], true)

/-- FEC decoding of n bytes and as much of their tail as `devs` holds: symbols that the encoder makes of some bits, with a
tail of zero bits, decode to those bits; what the Viterbi decoder makes of other symbols is a free value (R93; log entry
66). -/
def fecDecode (n outer : Nat) (devs : List Int) : List Bool :=
  let r := deconvolve [] (devs.flatMap (sliceBits outer))
  if r.2 && (r.1.drop (8 * n)).all (!·) then r.1.take (8 * n) else (List.range (min r.1.length (8 * n))).map (Config.viterbi devs)

/-- Whole bytes of bits, first bit in bit 7 (R81). -/
def bytesOfBits : List Bool → List Byte
  | a :: b :: c :: d :: e :: f :: g :: h :: r =>
    BitVec.ofNat 8 ([a, b, c, d, e, f, g, h].foldl (fun n x => 2 * n + x.toNat) 0) :: bytesOfBits r
  | _ => []

/-- The first n bytes after the sync word, or as many as were heard: sliced, decoded when coded, de-whitened. -/
def receivedBytes (fec : Bool) (n outer : Nat) (devs : List Int) : List Byte :=
  bytesOfBits (whiten (if fec then fecDecode n outer (devs.take (8 * n + 6))
    else (devs.take (4 * n)).flatMap (sliceBits outer)))

/-- The ten header bytes, from the first symbols after the sync word. In a coded packet their 80 bits have no tail of their
own: the tail follows byte N (R80, R93). -/
def receivedHeader (fec : Bool) (outer : Nat) (devs : List Int) : List Byte :=
  if fec then bytesOfBits (whiten (fecDecode 10 outer (devs.take 80))) else receivedBytes false 10 outer devs

/-- In how many symbols a sync word as heard differs from the district's (R87). -/
def syncErrors (district : BitVec 12) (w : BitVec 24) : Nat :=
  ((List.range 24).filter (fun i => w.getLsbD i != (syncWord district).testBit i)).length

/-! ### What goes on air (R80, R99) -/

/-- One wake block (R99). -/
def wakeBlock (district wcode : BitVec 12) : List Int :=
  preamble 16 ++ symbols2 (bitsMsb 24 (syncWord district)) ++ symbols2 (bitsMsb 24 (wakeWord wcode))

/-- What a committed transmission puts on air, symbol by symbol; the last wake block may be cut short (R80, R99). -/
def Tx.air (t : Tx) (district : BitVec 12) : List Int :=
  if t.wrun = 0 then packetSymbols district t.fec t.bytes
  else
    let n := if t.cls = 0 then t.onair / 2 else if t.cls = 1 then t.onair else t.onair * 2
    ((List.replicate (n / 64 + 1) (wakeBlock district t.wcode)).flatten).take n

/-! ### Headers (R88 to R91) -/

structure Header where
  type : Nat
  ver : Nat
  key : Bool
  len : Nat
  dst : Word
  src : Word
  frm : Word
  deriving DecidableEq, Repr

/-- Header bytes 0 to 7. -/
def headerCore (type : Nat) (key : Bool) (len : Nat) (dst src frm : Word) : List Byte :=
  [BitVec.ofNat 8 (type * 16 + 4 + (if key then 2 else 0)), BitVec.ofNat 8 len, hiByte dst, loByte dst, hiByte src,
    loByte src, hiByte frm, loByte frm]

def withHcrc (h : List Byte) : List Byte := h ++ bytesOfWords [crc16 0xFFFF h]

/-- Append FCRC (R80 step 3). -/
def withFcrc (l : List Byte) : List Byte := l ++ bytesOfWords [crc16 0x1D0F l]

def wordAt (l : List Byte) (i : Nat) : Word :=
  BitVec.ofNat 16 ((l.getD i 0).toNat * 256 + (l.getD (i + 1) 0).toNat)

def Header.ofBytes (l : List Byte) : Header :=
  let b0 := (l.getD 0 0).toNat
  ⟨b0 / 16, b0 / 4 % 4, b0 / 2 % 2 == 1, (l.getD 1 0).toNat, wordAt l 2, wordAt l 4, wordAt l 6⟩

/-- R90: the header passes. -/
def headerOk (cls : Nat) (l : List Byte) : Bool :=
  let h := Header.ofBytes l
  10 ≤ l.length && wordAt l 8 == crc16 0xFFFF (l.take 8) && h.ver == 1 &&
    1 ≤ h.type && h.type ≤ 7 && h.len ≤ classMax cls

/-- FCRC of a packet of N bytes. -/
def fcrcOk (l : List Byte) : Bool := wordAt l (l.length - 2) == crc16 0x1D0F (l.take (l.length - 2))

/-- A sealed packet from its payload (R80): header, ciphertext, MIC, FCRC. -/
def sealPacket (key nonce hdr payload : List Byte) : List Byte :=
  let c := ccmSealBytes key nonce hdr payload
  withFcrc (withHcrc hdr ++ c.1 ++ c.2)

/-! ### Nonces (R95) -/

def nonceBytes (type : Nat) (district : BitVec 12) (src dst : Word) (frame slot hop sub : Nat) (ticket : Word) :
    List Byte :=
  [BitVec.ofNat 8 (type * 16 + district.toNat / 256), BitVec.ofNat 8 district.toNat, hiByte src, loByte src,
    hiByte dst, loByte dst] ++ beBytes 4 frame ++
  [BitVec.ofNat 8 (slot * 32 + hop * 8 + sub), hiByte ticket, loByte ticket]

/-- The frame number and the slot that a nonce names. -/
def nonceFrame (n : List Byte) : Nat := beNat ((n.drop 6).take 4)
def nonceSlot (n : List Byte) : Nat := (n.getD 10 0).toNat / 32

/-! ### The immediate ack (R97) -/

def crc8Bit (c : Byte) : Byte := if c.getLsbD 7 then (c <<< 1) ^^^ 0x07 else c <<< 1

def crc8 (init : Byte) (l : List Byte) : Byte :=
  l.foldl (fun c b =>
    crc8Bit (crc8Bit (crc8Bit (crc8Bit (crc8Bit (crc8Bit (crc8Bit (crc8Bit (c ^^^ b))))))))) init

/-- ACHK of an ack byte. -/
def ackCheckByte (district : BitVec 12) (b0 : Byte) : Byte := crc8 (BitVec.ofNat 8 district.toNat) [b0]

/-! ### Uplink hopping (R101) -/

def hopIndex (addr f u : Nat) (d : BitVec 12) (nc : Nat) : Nat :=
  let x := addr ^^^ (f % 65536)
  let h0 := (x * 0x6A2D + u * 0xB583 + f / 65536 + d.toNat * 0x11) % 65536
  let h1 := h0 ^^^ (h0 / 256)
  h1 * nc / 65536

end Sys2Proof.Machine
end

