-- ==== Sys2Proof/Machine/Safe.lean ====
section
/-! DEFINITION. The key region, the mode block, the beacon core, the safe plan and the entry to safe-hold
(R202, R284, R203, R104, R424 to R426). -/

namespace Sys2Proof.Machine

open Sys2Proof

/-! ### Keys (R202) -/

def keyAddr (entry : Nat) : Nat := keyBase + 8 * entry

def State.keyBytes (s : State) (entry : Nat) : List Byte := bytesOfWords (s.rdN (keyAddr entry) 8)

def keyPresent (k : List Byte) : Bool := k.any (· != 0)

def State.hasKey (s : State) (entry : Nat) : Bool := keyPresent (s.keyBytes entry)

/-- Entry of a broadcast slot: slot 0 is 0x0000, slot 1 is 0xFFFF. -/
def bslotEntry (slot1 : Bool) : Nat := if slot1 then 0xFFFF else 0

def State.bkey (s : State) : List Byte := s.keyBytes (bslotEntry s.aon.bslot)

/-- Write a key entry. -/
def State.setKey (s : State) (entry : Nat) (k : List Byte) : State :=
  let ws := wordsOfBytes k
  let t (i : Nat) (s : State) : State :=
    s.wrPair (keyAddr entry + 2 * i) (ws.getD (2 * i) 0) (ws.getD (2 * i + 1) 0)
  t 3 (t 2 (t 1 (t 0 s)))

/-! ### Operating mode (R1, R203, R284) -/

/-- The relay configuration of R203. -/
structure RelayCfg where
  addr : Word
  depth : Nat
  upstream : Word
  upfreq : Nat
  w0cen : Nat
  pidx : Nat
  pcount : Nat
  deriving DecidableEq, Repr

/-- The mode block's layout is the model's own (log entry 9): word 0 [0] Relay mode, then the items of R203. -/
def RelayCfg.ofBlock (b : List Word) : RelayCfg :=
  let w (i : Nat) : Word := b.getD i 0
  ⟨w 1, (w 2).toNat, w 3, pair32 (w 4) (w 5), pair32 (w 6) (w 7), (w 8).toNat, (w 9).toNat⟩

def RelayCfg.toBlock (r : RelayCfg) : List Word :=
  [1, r.addr, BitVec.ofNat 16 r.depth, r.upstream, lo16 r.upfreq, hi16 r.upfreq, lo16 r.w0cen, hi16 r.w0cen,
    BitVec.ofNat 16 r.pidx, BitVec.ofNat 16 r.pcount, 0, 0, 0, 0, 0]

def coordBlock : List Word := List.replicate 15 0

/-- Is each item in its range (R3, R203)? -/
def RelayCfg.ok (r : RelayCfg) : Bool :=
  let unit (a : Word) : Bool := a != 0 && a != 0xFFFF
  unit r.addr && ((r.depth == 1 && r.upstream == 0) || (r.depth == 2 && unit r.upstream)) &&
    decide (1360000 ≤ r.upfreq) && decide (r.upfreq ≤ 9600000) &&
    (r.w0cen == 0 || (decide (0x04D260 ≤ r.w0cen) && decide (r.w0cen ≤ 0x923D80))) &&
    decide (1 ≤ r.pcount) && decide (r.pcount ≤ 16) && decide (r.pidx < r.pcount)

/-- The relay configuration in Relay mode, none in Coordinator mode (R1; without a valid mode block, Coordinator, R284). -/
def State.relay (s : State) : Option RelayCfg :=
  match s.aon.mode with
  | none => none
  | some b => if bit (b.getD 0 0) 0 && (RelayCfg.ofBlock b).ok then some (RelayCfg.ofBlock b) else none

def State.isRelay (s : State) : Bool := s.relay.isSome

/-- The district broadcast SRC of this machine: 0x0000 for the coordinator, a relay's own address (R88). -/
def State.ownAddr (s : State) : Word :=
  match s.relay with
  | some r => r.addr
  | none => 0

/-! ### Frame position -/

/-- Is the frame with this position in the Cycle frame 0, so that slot 7 runs as C (R25)? -/
def State.cSlotFrame (s : State) : Bool := s.seq.fic == 0

/-- Frames per Cycle and Cycles per Rotation of the upstream PLAN page (R105). -/
def State.upLens (s : State) : Option (Nat × Nat) :=
  s.afw.upPlan.map (fun p => (beNat p.1 / 2 ^ 14 % 4096, beNat p.1 / 2 ^ 4 % 1024))

/-- Frames per Cycle and Cycles per Rotation in force: in Relay mode those of the upstream PLAN page (R43, R44); none
while a relay has no such page (log entry 32). -/
def State.lens (s : State) : Option (Nat × Nat) :=
  if s.isRelay then s.upLens else some (s.seq.cycLen.toNat, s.seq.rotLen.toNat)

/-- Does the boundary that ends this frame end a Cycle, and a Rotation (R44)? -/
def State.cycleEnds (s : State) : Bool :=
  match s.lens with | some l => decide (l.1 ≤ s.seq.fic.toNat + 1) | none => false

def State.rotationEnds (s : State) : Bool :=
  match s.lens with | some l => s.cycleEnds && decide (l.2 ≤ s.seq.cir.toNat + 1) | none => false

/-- FIC, CIR and ROT of the frame after the current one (R43, R44). -/
def State.nextPos (s : State) : Word × Word × Word :=
  let q := s.seq
  if !s.cycleEnds then (q.fic + 1, q.cir, q.rot)
  else if !s.rotationEnds then (0, q.cir + 1, q.rot)
  else (0, 0, q.rot + 1)

/-- Is a receive window on: its centre in force is set (R139), and W1 is off in Relay mode and in safe-hold (R18)? -/
def State.winOn (s : State) (win : Bool) : Bool := s.cen win != 0 && !(win && (s.isRelay || s.safe.on))

/-- Is a relay in SEARCH, where lane 0 looks for the upstream beacon in every slot (R211, R212)? -/
def State.searching (s : State) : Bool := s.isRelay && decide (s.seq.rstate.toNat ≤ 1) && !s.safe.on

/-- A relay's own SAFE in frame g: a SAFE beacon from upstream, ORPHAN, or the frame of the beacon that ends ORPHAN (R131,
R214). In HOLDOVER after a SAFE beacon it stays until the next valid beacon (DESIGN CHOICE, log entry 65). -/
def State.safeIn (s : State) (g : Nat) : Bool :=
  s.isRelay && (s.seq.safeUp || s.seq.orphan || s.seq.backFrame == some (BitVec.ofNat 32 g))

def State.ownSafe (s : State) : Bool := s.safeIn s.frm

/-- The first bin of a channel of w bins whose centre is given in units of 100 Hz, in a window centred at cen. -/
def binOf (cen centre w : Nat) : Int := ((2 * (centre : Int) - 2 * (cen : Int)).fdiv 125 - (w : Int)).fdiv 2 + 128

/-- The upstream beacon channel of a relay in its own W0 (R204). -/
def State.upChannel (s : State) (r : RelayCfg) (cls : Nat) : Chan :=
  ⟨false, BitVec.ofInt 8 (binOf (s.rxw.cen0.toNat) r.upfreq (binsOf cls))⟩

/-- A step that waits becomes ready when no accepted order is outstanding (R47): frame n + 2 carries it. In safe-hold
too: R46 and R47 make no exception for it, and the beacon's STEP is 0 there (R425; log entry 65). -/
def State.readyStep (s : State) : State :=
  if s.seq.stepPend && s.seq.stepFrame.isNone && s.afw.orders.isEmpty && !s.isRelay then
    { s with seq := { s.seq with stepFrame := some (s.seq.frame + 2) } }
  else s

/-! ### Beacon core (R104) -/

def beaconCore (safe step : Bool) (depth page : Nat) (frame : Nat) (fic cir : Word) (cfgv : BitVec 2) (rot : Word) :
    List Byte :=
  let b0 := (if safe then 128 else 0) + (if step then 64 else 0) + 16 * depth + page
  [BitVec.ofNat 8 b0] ++ beBytes 2 (frame / 65536) ++
    beBytes 3 (fic.toNat % 4096 * 4096 + cir.toNat % 1024 * 4 + cfgv.toNat) ++ beBytes 2 rot.toNat

/-- A sealed beacon or group acknowledgement under the broadcast key, for hop window h of slot s in frame f. -/
def sealBroadcast (st : State) (type slot hop frame : Nat) (payload : List Byte) : List Byte :=
  let hdr := headerCore type true payload.length 0xFFFF st.ownAddr (lo16 frame)
  sealPacket st.bkey (nonceBytes type st.district st.ownAddr 0xFFFF frame slot hop 0 0) hdr payload

/-! ### The safe plan (R425) -/

/-- The plan-store addresses of the safe buffers (the model's own, log entry 8). -/
def safeTxBuf : Nat := 0xFF1500
def safeRxBuf : Nat := 0xFF1580

def inSafeBuf (a : Nat) : Bool := safeTxBuf ≤ a && a < safeTxBuf + 256

/-- The safe plan built from the plan current at E, before validation. -/
def safePlanOf (cur : Memory) : Memory :=
  let s0 := planSlot cur 0
  let e := planEntry cur 0
  let p : Memory := Memory.set0 [] 0 0x1000
  let p := p.set0 1 (cur.get0 1)
  let p := p.set0 2 ({ role := roleK, cls := s0.cls, hopwin := s0.hopwin, peven := 0, podd := 0, rsvd := 0 } : SlotWord).toWord
  if e.en then
    let p := p.set0 0x10 (planTx cur 0 0)
    let p := p.set0 0x11 (lo16 safeTxBuf)
    let p := p.set0 0x12 (hi16 safeTxBuf)
    let p := p.set0 0x13 (planTx cur 0 3)
    let p := p.set0 0x14 (planTx cur 0 4)
    let p := p.set0 0x15 (planTx cur 0 5)
    p.set0 (0x100 + 128) ({ en := true, win := e.win, width := s0.cls, fec := e.fec, bin := e.bin } : LaneMap).toWord
  else p

/-- The safe plan as installed: without its transmit entry when validation fails (R425). -/
def State.safePlan (s : State) : Memory :=
  let p := safePlanOf (s.seq.cur.getD [])
  match planFault s.region s.cenNew p with
  | none => p
  | some _ => ((((p.set0 0x10 0).set0 0x11 0).set0 0x12 0).set0 0x13 0).set0 0x14 0

/-- TMON writes the SAFE beacon of frame f into the safe transmit buffer and arms slot 0; without a broadcast key it
does neither (R425). -/
def State.writeSafeBeacon (s : State) : State :=
  if keyPresent s.bkey then
    let f := s.frm + 1
    let pos := s.nextPos
    let depth := (planSlot (s.seq.cur.getD []) 0).hopwin
    let body := beaconCore true false depth 7 f pos.1 pos.2.1 s.aon.cfgv pos.2.2 ++ List.replicate 7 0
    let pkt := sealBroadcast s 1 0 depth f body
    let buf := ((31 : Word) :: wordsOfBytes pkt)
    { s with seq := { s.seq with
        arm := s.seq.arm ||| 1,
        safeBuf := (buf.foldl (fun (x : Memory × Nat) w => (x.1.set0 x.2 w, x.2 + 1))
          (s.seq.safeBuf.drop (· < 128), 0)).1 } }
  else s

/-! ### Safe-hold entry (R424, R426) -/

/-- Hold the application cores in reset. -/
def State.holdCores (s : State) : State :=
  s.modCores CoreId.apps (fun k => { k with run := .held, busy := false })

/-- A calibration run ends at once; targets already set are kept (R405). -/
def State.endCalRun (s : State) : State :=
  { s with cal := { s.cal with run := none, redo := [],
                               steps := (s.cal.steps.filter (fun x => decide (x.start < s.now))).map
                                 (fun x => { x with stop := min x.stop s.now }) } }

/-- The power state stays RUN in safe-hold: an entry to STANDBY or SLEEP is given up, and DOZE ends (R426, R430). -/
def Pwr.run (p : Pwr) : Pwr :=
  { p with ctl := 0, state := .run, entering := false, toSleep := false, past := false, resuming := false,
           heldWake := none, draining := p.draining.filter (· != .ports) }

/-- The sequencer at the entry to safe-hold: it runs, with no arm bit; in Relay mode no announced step is applied any more
(R424, R428). -/
def Seq.safeHold (q : Seq) (relay : Bool) (plan : Memory) : Seq :=
  { q with arm := 0, armBlock := false, stopped := false, entrySlot := none,
           pend := some { plan := plan, addr := 0, caller := none, validated := true, forCmd := false },
           testState := false, testEnd := false, cca := none,
           step := if relay then 0 else q.step, stepPend := !relay && q.stepPend,
           stepFrame := if relay then none else q.stepFrame }

/-- Entry to safe-hold at this instant for a cause of R277; ignored when safe-hold is already in force (R430). Every
outstanding order ends (R75); the lines follow with SAFE_HOLD_REPORT. -/
def State.enterSafe (s : State) (cause : BitVec 4) : State :=
  if s.safe.on then s
  else
    let t := s.holdCores.endCalRun
    let t := { t with
      safe := { on := true, cause := cause, frame := s.seq.frame, reported := false, beforeReady := !s.afw.ready },
      aon := { t.aon with safeCause := cause },
      pins := { t.pins with safe := true },
      ports := { t.ports with sbSafe := true, sbBusy := false },
      pwr := t.pwr.run,
      sys := { t.sys with wdOn := false, slow := [], waiting := [] },
      interp := { t.interp with cur := none, long := none, lines := [], wait := none, gnss := none },
      afw := { t.afw with orders := [], passOrders := [], heldOrders := [], enable := false, alarms := [],
                          relayEntries := [], relayResults := [], forwards := [], wakes := [] },
      seq := t.seq.safeHold s.isRelay s.safePlan }
    (if s.seq.tick < 9504 then t.writeSafeBeacon else t).readyStep

end Sys2Proof.Machine
end

