-- ==== Sys2Proof/Machine/Transmit.lean ====
section
/-! DEFINITION. The synthesiser, the commit decision and a transmission's course, and the loss of the PLL
(R12, R20 to R23, R31, R160 to R175). -/

namespace Sys2Proof.Machine

open Sys2Proof

/-! ### The slot about to start -/

/-- The frame of a slot's transmission: slot 0 belongs to the new frame (R171). -/
def State.slotFrame (s : State) (slot : Nat) : Nat := if slot = 0 then s.frm + 1 else s.frm

/-- The plan that governs a slot at its commit point: slot 0 already follows the latched plan (R40). -/
def State.slotPlan (s : State) (slot : Nat) : Memory :=
  if slot = 0 then (match s.seq.next with | some p => p | none => s.seq.cur.getD []) else s.seq.cur.getD []

/-- The last slot that can carry a W slot (R25). -/
def State.lastW (s : State) : Nat := if s.cSlotFrame then 6 else 7

/-- Slot 7 of frame 0 of a Cycle runs as C (R25); in safe-hold every slot but the beacon's is idle (R18, R426). -/
def State.isCSlot (s : State) (slot : Nat) : Bool := slot == 7 && s.cSlotFrame && !s.safe.on

/-- The P side of a slot in a frame: 0 idle, 1 upstream end, 2 downstream end (R30). -/
def pSide (w : SlotWord) (frame : Nat) : Nat := if frame % 2 = 0 then w.peven else w.podd

/-- Does the role let the machine transmit in that frame (R24, R30, R31)? R39 has no ground against role B or K in slots
2 to 7: such a slot transmits in its hop window (DESIGN CHOICE, log entry 64). -/
def roleTransmits (p : Memory) (slot frame : Nat) : Bool :=
  let w := planSlot p slot
  if w.role = roleP then pSide w frame != 0
  else if w.role = roleW then wFirst p slot == slot
  else w.role == roleB || w.role == roleK || w.role == roleD

/-- The transmit entry is enabled and the slot's role transmits; in radio test state no slot has a role (R181). -/
def State.slotSends (s : State) (slot : Nat) : Bool :=
  let p := s.slotPlan slot
  !s.seq.testState && !s.seq.stopped && !s.isCSlot slot && (planEntry p slot).en &&
    roleTransmits p slot (s.slotFrame slot)

/-- Position of the first preamble symbol in the slot (R20, R26, R30). -/
def txStart (w : SlotWord) (frame : Nat) : Nat :=
  if w.role = roleB ∨ w.role = roleK then (if w.hopwin = 0 then 16 else if w.hopwin = 1 then 384 else 752)
  else if w.role = roleP ∧ pSide w frame = 2 then 572
  else 16

/-- The Tick of a point that lies n Ticks before a slot's start, in the frame where it falls (R20); before slot 0 it
moves with the step that the frame carries (R48). -/
def Seq.beforeSlot (q : Seq) (slot n : Nat) : Nat := if slot = 0 then 9600 + q.ext - n else 1200 * slot - n

/-! ### Synthesiser (R162 to R166) -/

/-- The output dividers of R162, doubled. -/
def synDividers : List Nat := [8, 9] ++ (List.range 26).map (fun i => 2 * (i + 5))

/-- Twice the divider M for a carrier of c × 50 Hz (R162). -/
def synDivider (c : Nat) : Nat := (synDividers.find? (fun m => c * m ≥ 136000000)).getD 60

/-- NINT and K of R162: VCO / 38.4 MHz in units of 2^−22, rounded to nearest. -/
def synWord (c : Nat) : Nat :=
  (2 * (c * synDivider c * 4194304) + 1536000) / (2 * 1536000)

def synNint (c : Nat) : Nat := synWord c / 4194304
def synFrac (c : Nat) : Nat := synWord c % 4194304

/-- Tune the loop to a carrier (R162). -/
def Syn.tune (y : Syn) (c : Nat) : Syn :=
  { y with carrier := c, div2 := synDivider c, nint := synNint c, frac := synFrac c }

/-- Invalidate every entry of a window (R164). -/
def Syn.invalidate (y : Syn) (w1 : Bool) : Syn :=
  { y with table := y.table.map (fun c =>
      if c.1 % 2 = 0 ∧ (c.1 / 512 = 1) = (w1 = true) then (c.1, c.2 &&& 0x7FFF) else c)
    |>.filter (fun c => c.2 != 0) }

/-- Pending SYN_INVAL bits take effect at this start or hop (R166). -/
def Syn.applyInval (y : Syn) : Syn :=
  let y := if y.inval0 then y.invalidate false else y
  let y := if y.inval1 then y.invalidate true else y
  { y with inval0 := false, inval1 := false }

def Syn.valid (y : Syn) (k : Nat) : Bool := bit (y.table.get0 (2 * k)) 15

/-- A bit of SYN_INVAL: the window's entries become invalid at the next start or hop (R164, R166, R435). -/
def Syn.inval (y : Syn) (w1 : Bool) : Syn := if w1 then { y with inval1 := true } else { y with inval0 := true }

/-- A new window centre or a recalibration: the window's entries become invalid at once, or for the next start or hop while
one of them is in use (R164, R166). -/
def Syn.invalWindow (y : Syn) (w1 : Bool) : Syn :=
  if y.on && (y.idx.getLsbD 8 == w1) then y.inval w1 else y.invalidate w1

/-- Start the synthesiser on an entry or hop to it (R160, R162, R164). Nothing changes on the same channel. -/
def Syn.start (y : Syn) (k : BitVec 9) (carrier : Nat) : Syn :=
  if y.on && y.lock && y.idx == k && y.carrier == carrier then y
  else
    let y := y.applyInval
    ({ y with on := true, lock := false, idx := k, fullCal := !y.valid k.toNat } : Syn).tune carrier

/-- Lock: a full calibration writes its entry with VALID (R164). Reserved bits read 0. -/
def Syn.locked (y : Syn) (w0 w1 : Word) : Syn :=
  if y.on && !y.lock then
    let y := { y with lock := true }
    if y.fullCal then
      { y with fullCal := false,
               table := (y.table.set0 (2 * y.idx.toNat) ((w0 &&& 0x03FF) ||| 0x8000)).set0 (2 * y.idx.toNat + 1)
                 (w1 &&& 0xFF3F) }
    else y
  else y

/-- Start or hop the synthesiser and let it lock, or not; the words of a full calibration are free values (R164). -/
def State.synRun (s : State) (k : BitVec 9) (carrier : Nat) (locks : Bool) : State :=
  let a := s.takeFree
  let b := a.2.takeFree
  let y := b.2.syn.start k carrier
  { b.2 with syn := if locks then y.locked a.1 b.1 else y }

def entryIdx (e : TxEntry) : BitVec 9 := BitVec.ofNat 9 (256 * (if e.win then 1 else 0) + e.bin)

def chanIdx (c : Chan) : BitVec 9 := BitVec.ofNat 9 (256 * (if c.win then 1 else 0) + c.bin.toNat)

/-! ### Pins of the transmit path (R161) -/

/-- The level of TRSW for transmit or receive. -/
def TxRegs.trsw (x : TxRegs) (transmit : Bool) : Bool := if x.cfgWritten then transmit != bit x.cfgAct 12 else false

def State.trswLevel (s : State) (transmit : Bool) : Bool := s.tx.trsw transmit

/-! ### Held outputs (R401, R406) -/

/-- The step that runs at a Tick of the schedule. -/
def State.stepAt (s : State) (t : Nat) : Option CalStep :=
  s.cal.steps.find? (fun x => decide (x.start ≤ t) && decide (t < x.stop))

/-- Does a step hold the outputs of an antenna? TXIQ and LOL use ADC A. -/
def CalStep.holds (x : CalStep) (ant : Ant) : Bool :=
  match x.part with
  | .adc | .lna => (ant == .b) == x.antB
  | .txiq | .lol => ant == .a
  | .syn | .padet => false

/-- The step that runs now. -/
def State.stepRuns (s : State) : Option CalStep := s.stepAt s.now

def State.rxHeldAt (s : State) (ant : Ant) (t : Nat) : Bool := (s.stepAt t).any (·.holds ant)

/-- Is TX_PWRRB held, and are the readings of temperature and VDD_PA? -/
def State.powerHeld (s : State) : Bool := s.stepRuns.any (fun x => x.part == .txiq || x.part == .lol || x.part == .padet)
def State.tempHeld (s : State) : Bool := s.stepRuns.any (fun x => x.part == .padet)

/-! ### The external PA (R169) -/

/-- The power in 0.25 dB of point k of the detector table: P_top − 5k dB in external PA mode, the factory trim's in internal
PA mode (R396). -/
def State.detPoint (s : State) (k : Nat) : Int :=
  let ws := s.region.getD []
  let top := (List.range (regionN ws)).foldl (fun m j => max m (regionRange ws j).pmax) (-40)
  if s.tx.extPa then top - 20 * (k : Int) else s.otp.trim.dbm.getD k 0

/-- The power in 0.25 dB that a detector code stands for: that of its point of the table, between points a free value (R169,
R396; log entry 67). -/
def State.detPower (s : State) (code : BitVec 12) : Int :=
  match s.cal.padet.findIdx? (· == code) with
  | some k => s.detPoint k
  | none => Config.detLevel s.cal.padet code

/-- Detector samples in a symbol, one every 2 µs. -/
def detPerSymbol (cls : Nat) : Nat := if cls = 0 then 104 else if cls = 1 then 52 else 26

/-- The loop: the PA_VCTL code, and whether an over-power reading is being answered. -/
structure PaLoop where
  code : Nat
  high : Bool
  deriving DecidableEq, Repr

/-- PA_VCTL never exceeds VCTLMAX (R169). -/
def State.vctlMax (s : State) : Nat := field ((s.region.getD []).getD 1 0) 11 0

/-- One detector sample (R169 step 4): above the range maximum plus 0.5 dB the code falls by 64 every 2 µs until the
reading is at or below the maximum. -/
def State.detSample (s : State) (pmax : Int) (x : PaLoop) (d : BitVec 12) : PaLoop :=
  let p := s.detPower d
  let high := decide (pmax + 2 < p) || (x.high && decide (pmax < p))
  { code := if high then x.code - 64 else x.code, high := high }

/-- The trim after sample i of the first 8 preamble symbols: at most 64 steps a symbol towards the target; how many is a
free value (R169 step 2, log entry 67). -/
def State.detTrim (s : State) (target : Int) (x : PaLoop) (i : Nat) (d : BitVec 12) : PaLoop :=
  let n := Config.vctlTrim (s.free + i) % 65
  let p := s.detPower d
  if x.high then x
  else { x with code := min s.vctlMax (if p < target then x.code + n else if target < p then x.code - n else x.code) }

/-- The code at the end of the preamble's first 8 symbols. -/
def State.trimCode (s : State) (t : Tx) (det : List (BitVec 12)) : PaLoop :=
  let pmax := (regionRange (s.region.getD []) t.range).pmax
  let n := detPerSymbol t.cls
  (det.zipIdx).foldl (fun x d =>
    let y := s.detSample pmax x d.1
    if (d.2 + 1) % n = 0 && d.2 / n < 8 then s.detTrim (sword t.pwr) y d.2 d.1 else y)
    ⟨min s.vctlMax (match s.tx.codes.find? (fun c => c.1 == t.range) with
      | some c => c.2.toNat | none => (Config.vctlStart t.range).toNat), false⟩

/-- The code at the end of the frozen part, which goes on from where the first 8 symbols left the loop. -/
def State.frozenCode (s : State) (t : Tx) (det : List (BitVec 12)) : PaLoop :=
  det.foldl (s.detSample (regionRange (s.region.getD []) t.range).pmax) ⟨s.tx.vctl.toNat, s.tx.high⟩

/-- The code when a transmission on air is cut. The samples up to the cut come with no row, and how far they lowered the
code is a free value (R169 step 4, log entry 67). -/
def State.cutCode (s : State) : Nat := s.tx.vctl.toNat - 64 * (Config.vctlTrim s.free % 64)

/-- The final code of a transmission, stored for its range (R169). -/
def TxRegs.setCode (x : TxRegs) (range : Nat) (code : BitVec 12) : List (Nat × BitVec 12) :=
  (range, code) :: x.codes.filter (fun c => c.1 != range)

/-! ### Range and result of a decision -/

/-- The range that contains a channel of w bins about a carrier in units of 50 Hz (R172). -/
def rangeAt (ws : List Word) (carrier w : Nat) : Option Nat :=
  (List.range (regionN ws)).find? (fun j =>
    let r := regionRange ws j
    2 * r.flo + w * 125 ≤ carrier && carrier + w * 125 ≤ 2 * r.fhi)

/-- Energy in 0.25 dBm as RXW_MDATA.LEVEL: −LEVEL / 4 dBm, powers above 0 dBm read 0 (R144). -/
def levelOf (e : Int) : Nat := if e > 0 then 0 else if e < -1023 then 1023 else e.natAbs

/-- What a commit point came to. -/
inductive Decision where
  /-- Nothing sent and nothing reported (R21 condition 1, R25). -/
  | silent
  /-- Reported without a transmission. -/
  | failed (o : TxOutcome)
  | committed
  deriving DecidableEq, Repr

/-- The bytes that a committed packet sends: word 0 gives N when it holds 1 to LEN, else LEN bytes go out (R459). -/
def sendLength (w0 : Word) (len : Nat) : Nat :=
  if hiByte w0 = 0 ∧ 1 ≤ w0.toNat ∧ w0.toNat ≤ len then w0.toNat else len

/-- The DMA engine's reading of a transmit buffer; the safe buffers lie in the plan store (R425). -/
def State.fetchBuf (s : State) (a n : Nat) : List Word × State :=
  if inSafeBuf a then ((List.range n).map (fun i => s.seq.safeBuf.get0 (a + i - safeTxBuf)), s)
  else s.dmaRead a n

/-- Everything of a decision before it is taken: the packet as it would go on air. -/
def State.txCandidate (s : State) (slot : BitVec 3) (carrier : Nat) : Tx × State :=
  let n := slot.toNat
  let p := s.slotPlan n
  let w := planSlot p n
  let e := planEntry p n
  let f := s.slotFrame n
  let run := if w.role = roleW then wRunLen p s.lastW n else 0
  let len := if run = 0 then e.len else 2
  let head := s.fetchBuf e.buf 1
  let cnt := sendLength (head.1.getD 0 0) len
  let body := head.2.fetchBuf (e.buf + 1) ((cnt + 1) / 2)
  let onair := if run = 0 then packetTicks w.cls cnt e.fec else wRunTicks run
  let ws := s.region.getD []
  let rg := rangeAt ws carrier (binsOf w.cls)
  ({ slot := slot, frame := BitVec.ofNat 32 f, range := rg.getD 0, inRange := rg.isSome, tag := e.tag,
     pwr := if regionExt ws then e.pwr else if sword e.pwr < -80 then BitVec.ofInt 16 (-80) else e.pwr,
     fec := e.fec, cls := w.cls, bytes := if run = 0 then (bytesOfWords body.1).take cnt else [],
     wrun := run, wcode := (body.1.getD 0 0).setWidth 12, onair := onair, start := txStart w f,
     carrier := carrier, temp := s.cal.temp, vpa := s.cal.vpa,
     paSet := Config.paSetting (if regionExt ws then 0 else max (-80) (sword e.pwr)) s.cal.temp s.cal.vpa,
     phase := .committed, cutAt := none }, body.2)

/-- Is listen-before-talk satisfied (R173)? -/
def lbtClear (r : Range) (c : Cca) : Bool :=
  !r.lbt || (decide (ccaEnergy c ≤ r.lbtthr) && !c.stale && !c.blanked)

/-- Clear the arm bits of a list of slots. -/
def clearArm (arm : BitVec 8) (slots : List Nat) : BitVec 8 :=
  slots.foldl (fun a i => a &&& ~~~((1 : BitVec 8) <<< i)) arm

/-- The commit decision of R21 for an enabled and armed slot: conditions 2 to 4 in order, the charge of R174 and the
entry of R175. Its BUDGET word is 0 where no range of a locked record contains the channel, which R175 leaves open (DESIGN
CHOICE, log entry 28). -/
def State.commitDecide (s : State) (slot : BitVec 3) (cca : Cca) : Decision × State :=
  let n := slot.toNat
  let p := s.slotPlan n
  let w := planSlot p n
  let e := planEntry p n
  let carrier := match s.seq.cca with
    | some c => if c.slot = slot then c.carrier else (chanCentre (s.cen e.win) e.bin (binsOf w.cls)).toNat
    | none => (chanCentre (s.cen e.win) e.bin (binsOf w.cls)).toNat
  let r := s.txCandidate slot carrier
  let t := r.1
  let s := r.2
  let ws := s.region.getD []
  let rg := regionRange ws t.range
  let f : Int := (t.frame.toNat : Int)
  let report (o : TxOutcome) (value : Word) : State :=
    let b := if t.inRange then budgetWord rg (s.gate.budget rg t.range f) else 0
    s.pushResult (resultEntry o n (if t.inRange then some t.range else none) (t.wrun != 0) t.tag t.frame.toNat value
      0 b)
  if !(s.syn.on && s.syn.lock && s.syn.idx == entryIdx e && s.syn.carrier == carrier && s.clk.lock) then (.failed .synlate, report .synlate 0)
  else if !t.inRange || !s.gate.passes rg t.range f t.onair then (.failed .gated, report .gated 0)
  else if !lbtClear rg cca then (.failed .blocked, report .blocked (BitVec.ofNat 16 (levelOf (ccaEnergy cca))))
  else (.committed, { s with seq := { s.seq with tx := some t }, gate := s.gate.charge t.range f t.onair })

/-- The commit point of a slot in hardware (R21, R25, R31, R38): sample and clear the arm bit, then decide. -/
def State.commitHw (s : State) (slot : BitVec 3) (cca : Cca) : Decision × State :=
  if s.seq.stopped then (.silent, s)
  else
    let n := slot.toNat
    let p := s.slotPlan n
    let armed := s.seq.arm.getLsbD n
    let later := (planSlot p n).role == roleW && wFirst p n != n && !s.isCSlot n && !s.seq.testState
    let cleared := if later then s.seq.arm
      else if (planSlot p n).role == roleW && !s.seq.testState && !s.isCSlot n then
        clearArm s.seq.arm ((List.range (wRunLen p s.lastW n)).map (· + n))
      else clearArm s.seq.arm [n]
    let s := { s with
      seq := { s.seq with tick := s.seq.beforeSlot n 19, arm := cleared },
      tx := { s.tx with cfgAct := s.tx.cfg },
      pins := { s.pins with trsw := ({ s.tx with cfgAct := s.tx.cfg } : TxRegs).trsw s.tx.txOn } }
    let r := if armed && !later && s.slotSends n then s.commitDecide slot cca else (Decision.silent, s)
    (r.1, { r.2 with seq := { r.2.seq with cca := none } })

/-! ### Meanings -/

/-- CLEAR_CHANNEL_WINDOW_OPEN (R160 step 1, R163, R164). -/
def execClearChannelWindowOpen (slot : BitVec 3) (s : State) : Out :=
  let n := slot.toNat
  let s1 := { s with seq := { s.seq with tick := s.seq.beforeSlot n 67 } }
  if s.slotSends n then
    let p := s.slotPlan n
    let e := planEntry p n
    let carrier := (chanCentre (s.cen e.win) e.bin (binsOf (planSlot p n).cls)).toNat
    .next { s1 with
      seq := { s1.seq with cca := some ⟨slot, carrier, entryIdx e⟩ },
      syn := s1.syn.start (entryIdx e) carrier,
      pwr := { s1.pwr with txs := true, chan := true, rxa := true, rxb := true } }
  else .next (if s.seq.stopped then s else s1)

/-- SYNTH_LOCK (R164, R165). -/
def execSynthLock (w0 w1 : Word) (s : State) : Out := .next { s with syn := s.syn.locked w0 w1 }

/-- TX_RAMP_UP (R160 step 3, R161, R167): the blanking span begins and the carrier comes up. In external PA mode `det` are
the detector's codes over the first 8 preamble symbols, one every 2 µs (R169). -/
def execTxRampUp (det : List (BitVec 12)) (s : State) : Out :=
  match s.seq.tx with
  | none => .next s
  | some t =>
    if t.phase = .committed then
      .next { s with
        seq := { s.seq with tx := some { t with phase := .onAir, up := true },
                            tick := (if t.frame = s.seq.frame then 1200 * t.slot.toNat + t.start else s.seq.tick) },
        tx := { s.tx with txOn := true, range := BitVec.ofNat 3 t.range,
                          vctl := if s.tx.extPa then BitVec.ofNat 12 (s.trimCode t det).code else 0,
                          high := s.tx.extPa && (s.trimCode t det).high },
        free := if s.tx.extPa then s.free + det.length else s.free,
        pins := { s.pins with trsw := s.trswLevel true, paEn := s.tx.extPa },
        pwr := { s.pwr with pa := true } }
    else .next s

/-- RAMP_DOWN_START (R160 step 4, R23): the last symbol has ended. In external PA mode `det` are the detector's codes
from the ninth preamble symbol on (R169). -/
def execRampDownStart (det : List (BitVec 12)) (s : State) : Out :=
  match s.seq.tx with
  | none => .next s
  | some t =>
    if t.phase = .onAir then
      .next { s with
        seq := { s.seq with tx := some { t with phase := .rampDown },
                            tick := max s.seq.tick (1200 * t.slot.toNat + t.start + t.onair) },
        tx := { s.tx with vctl := if s.tx.extPa then BitVec.ofNat 12 (s.frozenCode t det).code else 0 } }
    else .next s

/-- TX_RAMP_DOWN_END (R169, R170, R174, R175): the measured power, the corrected charge, the PA_VCTL code of the range
where the carrier came up, and the result entry. -/
def execTxRampDownEnd (power : BitVec 10) (s : State) : Out :=
  match s.seq.tx with
  | none => .next s
  | some t =>
    if t.phase = .rampDown then
      let f : Int := (t.frame.toNat : Int)
      let real := match t.cutAt with | some c => min c t.onair | none => t.onair
      let g := match t.cutAt with | some _ => s.gate.correct t.range f t.onair real | none => s.gate
      let pw := if s.powerHeld then s.tx.pwr else power
      let rg := regionRange (s.region.getD []) t.range
      let o : TxOutcome := if t.cutAt.isSome then .cutOff else .sent
      let codes := if s.tx.extPa && t.up then s.tx.setCode t.range s.tx.vctl else s.tx.codes
      let s1 := { s with gate := g, tx := { s.tx with pwr := pw, codes := codes, vctl := 0, high := false, last := some t },
                         seq := { s.seq with tx := none } }
      .next (s1.pushResult (resultEntry o t.slot.toNat (some t.range) (t.wrun != 0) t.tag t.frame.toNat
        (pw.setWidth 16) real (budgetWord rg (g.budget rg t.range f))))
    else .next s

/-- BLANKING_END (R148, R160 step 4, R161): 40 µs after the ramp-down. -/
def execBlankingEnd (s : State) : Out :=
  .next { s with tx := { s.tx with txOn := false },
                 rxw := if s.tx.txOn then { s.rxw with blankAll := false, blankEnd := s.seq.tick - 1200 * s.seq.slot.toNat }
                        else s.rxw,
                 pins := { s.pins with trsw := s.trswLevel false, paEn := false } }

/-- Cut the transmission in flight at an on-air time of c Ticks (R166, R174). -/
def State.cutTx (s : State) (c : Nat) : State :=
  match s.seq.tx with
  | none => s
  | some t =>
    if t.phase = .rampDown then s
    else
      let u := { s with seq := { s.seq with tx := some { t with phase := .rampDown, cutAt := some c } } }
      if s.tx.extPa && t.up then { u with tx := { s.tx with vctl := BitVec.ofNat 12 s.cutCode }, free := s.free + 1 } else u

/-- Is a transmission committed or on air? -/
def State.sending (s : State) : Bool :=
  match s.seq.tx with
  | none => false
  | some t => t.phase != .rampDown

/-- SYNTH_UNLOCK (R166). -/
def execSynthUnlock (elapsed : Nat) (s : State) : Out :=
  let t := s.cutTx elapsed
  .next { t with syn := { s.syn with lock := false, unlk := s.syn.unlk || s.sending } }

/-- TXMAX_CUT (R174): the backstop at the range's maximum single transmission time. -/
def execTxmaxCut (s : State) : Out :=
  match s.seq.tx with
  | none => .next s
  | some t =>
    let r := regionRange (s.region.getD []) t.range
    let m := (r.txmax * 96 + 9) / 10
    if t.phase = .onAir ∧ overTxmax r t.onair then .next (s.cutTx m) else .next s

/-- PLL_LOSS_OF_LOCK (R12, R13): LOL, the Tick from the reference from the next Tick edge on, the transmission on air
cut. -/
def execPllLossOfLock (elapsed : Nat) (s : State) : Out :=
  if s.clk.lock then
    let t := s.cutTx elapsed
    .next (({ t with clk := { t.clk with lock := false, lol := true, rxHold := true } } : State).selectTick true)
  else .next s

/-- PLL_RELOCK (R12): the Tick returns to the PLL at the next Tick edge; reception resumes at the next slot boundary. -/
def execPllRelock (s : State) : Out :=
  if s.clk.xordy ∧ s.pwr.state ≠ .standby ∧ s.pwr.state ≠ .sleep then
    .next (({ s with clk := { s.clk with lock := true } } : State).selectTick false)
  else .next s

/-- CLK_OUTCFG as a register write (R14, R15): an out-of-range divisor is ignored as a whole; with CLKOUT low because
EN is 0 the change acts at once (R16). -/
def State.clkOutcfg (s : State) (v : Word) : State :=
  let d := field v 11 0
  if d = 0 ∨ d > 3840 then s
  else
    let v := v &&& 0xCFFF
    if bit s.clk.outAct 15 then { s with clk := { s.clk with outCfg := v } }
    else { s with clk := { s.clk with outCfg := v, outAct := v, outAt := some s.tickNo },
                  pins := { s.pins with clkoutOn := bit v 15 } }

/-- CLK_OUTCFG_WRITE (R14 to R16). -/
def execClkOutcfgWrite (v : Word) (s : State) : Out := .next (s.clkOutcfg v)

/-- CLKOUT_CONFIG_APPLY (R16): the end of the current low phase. A frame pulse that goes on keeps its phase. -/
def execClkoutConfigApply (s : State) : Out :=
  .next { s with clk := { s.clk with outAct := s.clk.outCfg,
                                     outAt := if bit s.clk.outAct 15 && bit s.clk.outAct 14 then s.clk.outAt else some s.tickNo },
                 pins := { s.pins with clkoutOn := bit s.clk.outCfg 15 && s.pwr.state != .sleep } }

/-- What CLKOUT carries (R14 to R16). -/
inductive Clkout where
  /-- Held low: EN is 0, or SLEEP. -/
  | low
  /-- The divided reference: half reference periods high and low. -/
  | divided (high low : Nat)
  /-- The frame pulse, at its present level. -/
  | pulse (high : Bool)
  deriving DecidableEq, Repr

/-- Half reference periods high and low for a divisor N (R15): N = 1 passes the reference itself. -/
def clkoutPhases (v : Word) : Nat × Nat :=
  let n := field v 11 0
  if n = 1 then (1, 1) else (2 * ((n + 1) / 2), 2 * (n / 2))

/-- CLKOUT under the setting in force: with SRC = 1 it rises at each frame boundary and stays high for one Tick. A setting
that came into force within Tick 0 waits for the next boundary, so no pulse is shorter (R15, R16). -/
def State.clkout (s : State) : Clkout :=
  if !s.pins.clkoutOn then .low
  else if bit s.clk.outAct 14 then .pulse (s.seq.tick == 0 && s.clk.outAt != some s.tickNo)
  else .divided (clkoutPhases s.clk.outAct).1 (clkoutPhases s.clk.outAct).2

end Sys2Proof.Machine
end

