-- ==== Sys2Proof/Machine/Seq.lean ====
section
/-! DEFINITION. The slot sequencer: slots, gain control, noise floors, plan validation and latching, frame counters,
PPS alignment and steps (R20, R32, R38 to R51, R138 to R147, R358). -/

namespace Sys2Proof.Machine

open Sys2Proof

/-! ### Gain control (R145 to R147) -/

def agcMode (w : Word) : Nat := field w 15 14
def agcMax (w : Word) : Nat := field w 13 10
def agcMin (w : Word) : Nat := field w 9 6
def agcFix (w : Word) : Nat := field w 5 2

/-- Which gain state a mode uses in a slot: AUTO8 one per slot, AUTO1 the ninth. That the one
state of AUTO1 stands apart from the eight of AUTO8 is the model's choice: R146 does not say (DESIGN CHOICE, log
entry 72). -/
def stateIdx (mode : Nat) (slot : BitVec 3) : Fin 9 :=
  if mode = 0 then ⟨slot.toNat, by omega⟩ else ⟨8, by omega⟩

def clampCode (w : Word) (c : BitVec 4) : BitVec 4 := BitVec.ofNat 4 (min (agcMax w) (max (agcMin w) c.toNat))

/-- The code in force in a slot. -/
def gainFor (w : Word) (st : Vector GainState 9) (slot : BitVec 3) : BitVec 4 :=
  if agcMode w = 2 then BitVec.ofNat 4 (agcFix w) else (st.get (stateIdx (agcMode w) slot)).code

/-- RXW_GAIN.NEWA / NEWB: some gain state of the mode has had no AUTO decision; 0 in FIXED (R145). -/
def agcNew (w : Word) (st : Vector GainState 9) : Bool :=
  if agcMode w = 2 then false
  else if agcMode w = 0 then (st.toList.take 8).any (fun g => !g.decided)
  else !(st.get 8).decided

/-- Is the gain code of a slot still its seed (R145)? -/
def seedIn (w : Word) (st : Vector GainState 9) (slot : BitVec 3) : Bool :=
  agcMode w != 2 && !(st.get (stateIdx (agcMode w) slot)).decided

/-- The decision of R146 on one state. Peaks are in 0.25 dBFS. -/
def agcStep (w : Word) (m : AgcIn) (g : GainState) : GainState :=
  let c := g.code.toNat
  if m.clip then ⟨BitVec.ofNat 4 (max (agcMin w) (c - 3)), 0, true⟩
  else if m.peak > -12 then ⟨BitVec.ofNat 4 (max (agcMin w) (c - 1)), 0, true⟩
  else if m.peak < -60 then
    (if g.low + 1 ≥ 4 then ⟨BitVec.ofNat 4 (min (agcMax w) (c + 1)), 0, true⟩ else ⟨g.code, g.low + 1, true⟩)
  else ⟨g.code, 0, true⟩

def agcApply (w : Word) (m : AgcIn) (slot : BitVec 3) (st : Vector GainState 9) : Vector GainState 9 :=
  if m.measured ∧ agcMode w ≠ 2 then
    let i := stateIdx (agcMode w) slot
    st.set i.val (agcStep w m (st.get i)) i.isLt
  else st

/-- The role in force in the current slot: X in test state, C in slot 7 of frame 0 (R25), and X without a plan, where the
slot roles stay idle, slots 0 and 1 with them (R384; DESIGN CHOICE, log entry 64). -/
def State.curRole (s : State) : Nat :=
  if s.seq.testState then roleX
  else if s.isCSlot s.seq.slot.toNat then roleC
  else match s.seq.cur with
    | none => roleX
    | some p => (planSlot p s.seq.slot.toNat).role

/-- Does the receiver measure in this slot: not in an X or C slot (R146), but in every slot of a relay's search (R212)? -/
def State.rxSlot (s : State) : Bool := s.curRole != roleC && (s.curRole != roleX || s.searching)

/-- AGC_DECISION (R146): Tick 1,128 of the slot; none in a slot without a measured interval. -/
def execAgcDecision (a b : AgcIn) (s : State) : Out :=
  let x := s.rxw
  let on := s.rxSlot && !(x.blankAll && s.tx.txOn)
  .next { s with
    seq := { s.seq with tick := 1200 * s.seq.slot.toNat + 1128 },
    rxw := { x with
      statesA := if on then agcApply x.agcActA a s.seq.slot x.statesA else x.statesA,
      statesB := if on then agcApply x.agcActB b s.seq.slot x.statesB else x.statesB,
      clipA := x.clipA || a.clip, clipB := x.clipB || b.clip,
      slotClipA := x.slotClipA || a.clip, slotClipB := x.slotClipB || b.clip } }

/-! ### Noise floors (R143) -/

/-- The seed of a bin in 0.25 dBm: the LBT threshold of the range that holds the bin centre less 6 dB, else −120 dBm. -/
def State.nfSeed (s : State) (k : BinKey) : Int :=
  let ws := s.region.getD []
  let c : Int := 2 * (s.cen k.win : Int) + ((k.bin.toNat : Int) - 128) * 250 + 125
  match (List.range (regionN ws)).find? (fun j =>
      let r := regionRange ws j
      decide (2 * (r.flo : Int) ≤ c) && decide (c ≤ 2 * (r.fhi : Int))) with
  | some j => (regionRange ws j).lbtthr - 24
  | none => -480

def Rxw.floor? (x : Rxw) (k : BinKey) : Option NoiseFloor := x.nf.find? (fun n => n.key == k)

/-- L' from L and the mean power E (R143). -/
def nfStep (l e : Int) : Int :=
  let e' := min e (l + 24)
  l + (e' - l + 8).fdiv 16

def State.nfUpdate (s : State) (k : BinKey) (e : Int) : State :=
  match s.rxw.floor? k with
  | some n => { s with rxw := { s.rxw with nf := s.rxw.nf.map (fun m =>
      if m.key = k then { m with level := nfStep n.level e, updates := min 16 (n.updates + 1) } else m) } }
  | none => { s with rxw := { s.rxw with nf := s.rxw.nf ++ [⟨k, nfStep (s.nfSeed k) e, 1⟩] } }

/-- Does the interval that ends at Tick 1,181 lie inside a W run? -/
def State.insideWRun (s : State) : Bool :=
  let n := s.seq.slot.toNat
  let p := s.seq.cur.getD []
  (planSlot p n).role == roleW && n + 1 ≤ s.lastW && n < 7 && (planSlot p (n + 1)).role == roleW

/-- Is the update of this bin skipped (R143)? A window that is off has no bins (R139), and bin powers of a blanking span
are not used (R148). -/
def State.nfSkips (s : State) (k : BinKey) : Bool :=
  s.insideWRun || !s.rxSlot || s.tx.txOn || !s.winOn k.win ||
  (match k.ant with
    | .a => s.rxw.slotClipA || s.rxw.slotStaleA
    | .b => s.rxw.slotClipB || s.rxw.slotStaleB) ||
  (if k.win then s.rxw.cenChg1 else s.rxw.cenChg0)

/-- NOISE_FLOOR_UPDATE (R143): mean bin powers over Ticks 1,133 to 1,181, in 0.25 dBm. -/
def execNoiseFloorUpdate (l : List (BinKey × Int)) (s : State) : Out :=
  let t := { s with seq := { s.seq with tick := 1200 * s.seq.slot.toNat + 1181 } }
  .next (l.foldl (fun t e => if s.nfSkips e.1 then t else t.nfUpdate e.1 e.2) t)

/-! ### Slot start (R20, R32, R139, R147, R160, R388, R435) -/

/-- A window centre written by TMON takes effect: floors reseed and the window's entries become invalid. -/
def State.applyCentres (s : State) : State :=
  let x := s.rxw
  let c0 := x.cen0 != x.cenAct0
  let c1 := x.cen1 != x.cenAct1
  let y := if c0 then s.syn.invalWindow false else s.syn
  let y := if c1 then y.invalWindow true else y
  { s with
    syn := y,
    rxw := { x with cenAct0 := x.cen0, cenAct1 := x.cen1, cenChg0 := c0, cenChg1 := c1,
                    nf := x.nf.filter (fun n => !(if n.key.win then c1 else c0)) } }

def State.applyAgc (s : State) (slot : BitVec 3) : State :=
  let x := s.rxw
  let clamp (old new : Word) (st : Vector GainState 9) : Vector GainState 9 :=
    if old = new then st else st.map (fun g => { g with code := clampCode new g.code })
  let sa := clamp x.agcActA x.agcA x.statesA
  let sb := clamp x.agcActB x.agcB x.statesB
  { s with rxw := { x with
      agcActA := x.agcA, agcActB := x.agcB, statesA := sa, statesB := sb,
      gainA := gainFor x.agcA sa slot, gainB := gainFor x.agcB sb slot,
      slotClipA := false, slotClipB := false, slotStaleA := false, slotStaleB := false,
      slotNewA := seedIn x.agcA sa slot, slotNewB := seedIn x.agcB sb slot,
      blankAll := s.tx.txOn, blankEnd := 0 } }

/-- LANE registers written before take effect (R435, R436). -/
def State.applyLanes (s : State) : State :=
  let l := s.lane
  { s with lane := { l with cfgAct := l.cfg, bufqAct := l.bufq, filtAct := l.filt, ownAct := l.own, taken := [] } }

/-- Radio domains of the slot that starts (R32, R388): off in X slots, receive on elsewhere, transmit on while the
slot's transmission is prepared. -/
def State.applyDomains (s : State) : State :=
  let on := s.curRole != roleX || s.searching
  let sends := s.sending
  { s with pwr := { s.pwr with rxa := on, rxb := on, chan := on, txs := sends || s.curRole == roleC,
                               pa := sends && s.pwr.pa },
           syn := if sends then s.syn else { s.syn with on := false, lock := false } }

/-! ### Arm bits (R38) -/

/-- A write of SEQ_TXARM_SET; ignored from a write of STANDBY or SLEEP on (R382). -/
def State.armSet (s : State) (v : Word) : State :=
  if s.seq.armBlock then s else { s with seq := { s.seq with arm := s.seq.arm ||| v.setWidth 8 } }

def State.armClr (s : State) (v : Word) : State :=
  { s with seq := { s.seq with arm := s.seq.arm &&& ~~~(v.setWidth 8) } }

def execSeqTxarmSetWrite (v : Word) (s : State) : Out := .next (s.armSet v)
def execSeqTxarmClrWrite (v : Word) (s : State) : Out := .next (s.armClr v)

/-! ### Cycle plan (R43) -/

def State.cyclen (s : State) (v : Word) : State :=
  let n := field v 11 0
  if 60 ≤ n ∧ n ≤ 3600 then { s with seq := { s.seq with cycPend := some (v.setWidth 12) } } else s

def State.rotlen (s : State) (v : Word) : State :=
  let n := field v 9 0
  if 1 ≤ n ∧ n ≤ 1008 then { s with seq := { s.seq with rotPend := some (v.setWidth 10) } } else s

def execSeqCyclenWrite (v : Word) (s : State) : Out := .next (s.cyclen v)
def execSeqRotlenWrite (v : Word) (s : State) : Out := .next (s.rotlen v)

/-! ### Plan commit, validation, latch (R39 to R42) -/

/-- A new commit replaces one that is not latched; a call still being validated is answered REPLACED (R41, R272). -/
def State.commitPlan (s : State) (p : PlanPend) : State :=
  let t := match s.seq.pend with
    | some q => (match q.caller with
      | some c => if q.validated then s else s.reply c 0x04 []
      | none => s)
    | none => s
  { t with seq := { t.seq with pend := some p } }

/-- A rejection (R42): PLANREJ, and safe-hold at the second in a Cycle. -/
def State.rejectPlan (s : State) : State :=
  let n := s.seq.rejInCycle + 1
  let t := { s with seq := { s.seq with pend := none, planRej := true, rejInCycle := n } }
  if n ≥ 2 then t.enterSafe 4 else t

/-- PLAN_VALIDATION_END in hardware and TMON (R39, R42): the ground of a rejection, if any. -/
def State.validateEnd (s : State) : Option Nat × State :=
  match s.seq.pend with
  | none => (none, s)
  | some p =>
    if p.validated then (none, s)
    else match planFault s.region s.cenNew p.plan with
      | none =>
        let t := { s with seq := { s.seq with pend := some { p with validated := true } } }
        (none, match p.caller with | some c => t.reply c 0x00 [] | none => t)
      | some g =>
        let t := match p.caller with | some c => s.reply c 0x03 [Config.reason g] | none => s
        (some g, t.rejectPlan)

/-- LATCH_POINT (R40, R41, R243): a validated plan moves to the next-plan store. -/
def execLatchPoint (s : State) : Out :=
  if s.seq.stopped then .next s
  else
    let t := { s with seq := { s.seq with tick := 9504 } }
    let t := match s.seq.pend with
      | none => t
      | some p =>
        if p.validated then
          { t with seq := { t.seq with next := some p.plan, pend := none },
                   afw := { t.afw with comingLatched := t.afw.comingLatched || p.forCmd, nextBase := p.base } }
        else t
    .next (t.raiseAll 3)

/-! ### Frame counters (R44, R50, R412) -/

/-- One frame boundary of the counters: FIC, CIR, ROT and the pending lengths. -/
def Seq.advanceFrame (q : Seq) : Seq :=
  let cyc := q.fic.toNat + 1 ≥ q.cycLen.toNat
  let rotn := cyc && q.cir.toNat + 1 ≥ q.rotLen.toNat
  { q with
    frame := q.frame + 1,
    fic := if cyc then 0 else q.fic + 1,
    cir := if rotn then 0 else if cyc then q.cir + 1 else q.cir,
    rot := if rotn then q.rot + 1 else q.rot,
    cycLen := if cyc then q.cycPend.getD q.cycLen else q.cycLen,
    cycPend := if cyc then none else q.cycPend,
    rotLen := if rotn then q.rotPend.getD q.rotLen else q.rotLen,
    rotPend := if rotn then none else q.rotPend,
    rejInCycle := if cyc then 0 else q.rejInCycle,
    tick := 0, extra := 0 }

/-- A boundary in Relay mode: SEQ_CYCLEN and SEQ_ROTLEN are ignored (R44); the lengths are those of the upstream PLAN
page, and without one nothing wraps (log entry 32). -/
def Seq.advanceRelay (q : Seq) (lens : Option (Nat × Nat)) : Seq :=
  let cyc := match lens with | some l => decide (q.fic.toNat + 1 ≥ l.1) | none => false
  let rotn := match lens with | some l => cyc && decide (q.cir.toNat + 1 ≥ l.2) | none => false
  { q with
    frame := q.frame + 1,
    fic := if cyc then 0 else q.fic + 1,
    cir := if rotn then 0 else if cyc then q.cir + 1 else q.cir,
    rot := if rotn then q.rot + 1 else q.rot,
    rejInCycle := if cyc then 0 else q.rejInCycle,
    tick := 0, extra := 0 }

/-- The record of the always-on logic (R412). -/
def Seq.record (q : Seq) : FrameRec :=
  ⟨q.frame, q.fic, q.cir, q.rot, q.cycLen, q.rotLen, q.cycPend, q.rotPend⟩

/-- Mean of the last 64 corrections (R46, R213), rounded down; of those there are while fewer than 64 have been recorded
(DESIGN CHOICE, log entry 64). -/
def meanCorr (l : List Int) : Int :=
  if l.isEmpty then 0 else (l.foldl (· + ·) 0).fdiv (l.length : Int)

def clampCorr (e : Int) : Int := max (-1024) (min 1024 e)

/-- Fine correction at the end of a frame (R46): the frame's length in reference periods and the history. -/
def Seq.applyCorr (q : Seq) : Seq :=
  let c := if q.holdover then clampCorr (meanCorr q.corrHist) else q.corr
  { q with absRef := (((q.absRef : Int) + 38400000 + c).toNat), corr := q.corrNext, corrNext := 0,
           corrHist := if q.holdover then q.corrHist else (c :: q.corrHist).take 64 }

/-- PPSEN acts at the frame boundary (R436). A step that the beacon of the frame that starts has announced still takes
place. -/
def Seq.applyPpsen (q : Seq) : Seq :=
  if q.ppsen = q.ppsenAct then q
  else if q.ppsen then { q with ppsenAct := true, ppsRun := 0, ppsMiss := 0, lastPps := none }
  else
    let keep := q.stepFrame == some q.frame
    { q with ppsenAct := false, ppsLock := false, holdover := false, ppsRun := 0, lastPps := none,
             stepPend := q.stepPend && keep, stepFrame := if keep then q.stepFrame else none,
             step := if keep then q.step else 0, corr := 0, corrNext := 0 }

/-- Is an announced step applied now? A coordinator's only while no accepted order is without a disposition (R47, R66), a
relay's not in safe-hold (R428). -/
def State.mayStep (s : State) : Bool := if s.isRelay then !s.safe.on else s.afw.orders.isEmpty

/-- STEP_EXTENSION (R47, R48): the idle extension after slot 7 of the frame that carries the step. A step that may not be
applied waits with STEPPEND. A coordinator's fine correction that stands in that frame is dropped, since the step takes up
the whole offset (DESIGN CHOICE, log entry 64); a relay's applies as in every TRACK frame (R213). -/
def execStepExtension (s : State) : Out :=
  if s.seq.stepFrame = some s.seq.frame ∧ s.mayStep = false then
    .next { s with seq := { s.seq with stepFrame := none } }
  else if s.seq.stepFrame = some s.seq.frame then
    .next { s with seq := { s.seq with absRef := s.seq.absRef + s.seq.step.toNat, step := 0, stepPend := false,
                                       stepFrame := none, extra := s.seq.ext,
                                       corr := if s.isRelay then s.seq.corr else 0,
                                       corrNext := if s.isRelay then s.seq.corrNext else 0 } }
  else .next s

def execSeqTcfgWrite (v : Word) (s : State) : Out :=
  .next { s with seq := { s.seq with ppsen := bit v 15 } }

/-! ### PPS (R46, R358) -/

/-- A qualified edge is measured against the nearest frame boundary: fine correction within one Tick, else a step, which is
all that is applied unless an accepted order holds it up: `busy` (R46, R47). A larger offset measured later leaves PPSLOCK
set, and a step already deferred keeps its Δ when fine correction has brought the offset within one Tick (DESIGN CHOICE,
log entry 64). -/
def Seq.measurePps (q : Seq) (busy : Bool) (stamp : Nat) : Seq :=
  let e : Int := if stamp ≤ 19200000 then (stamp : Int) else (stamp : Int) - 38400000
  if e.natAbs ≤ 4000 then
    { q with corrNext := clampCorr e, ppsLock := q.ppsLock || decide (e.natAbs ≤ 38), holdover := false }
  else if q.stepFrame.isSome then q
  else { q with corrNext := if busy then clampCorr e else 0, holdover := false, stepPend := true,
                step := BitVec.ofInt 32 (if e < 0 then 38400000 + e else e) }

/-- The qualification of an accepted edge. -/
def Seq.qualifyPps (q : Seq) (busy : Bool) (stamp : Nat) : Seq :=
  let t := q.absRef + stamp
  let fresh : Seq := { q with lastPps := some t, ppsRun := 1, ppsMiss := 0 }
  match q.lastPps with
  | none => fresh
  | some l =>
    if l + 38400000 - 1920 ≤ t ∧ t ≤ l + 38400000 + 1920 then
      let r := { q with lastPps := some t, ppsRun := min 3 (q.ppsRun + 1), ppsMiss := 0 }
      if r.ppsRun ≥ 3 then r.measurePps busy stamp else r
    else if t > l + 38400000 + 1920 then fresh
    else q

/-- PPS_EDGE (R358, R46): a short pulse is rejected; an accepted edge is stamped and counted, and from !READY on it
qualifies while PPSEN is acted on, in Coordinator mode, in safe-hold as in service (R18). -/
def execPpsEdge (long : Bool) (stamp : BitVec 26) (s : State) : Out :=
  if long then
    let t := { s with timep := { s.timep with ppsCnt := s.timep.ppsCnt + 1, ts := stamp,
                                              lastPpsFrame := if s.afw.ready then some s.seq.frame
                                                else s.timep.lastPpsFrame } }
    if s.afw.ready && s.seq.ppsenAct && !s.isRelay then
      .next ({ t with seq := t.seq.qualifyPps (!s.afw.orders.isEmpty) stamp.toNat }).readyStep
    else .next t
  else .next { s with timep := { s.timep with short := true } }

/-- PPS_HOLDOVER (R46): two consecutive expected edges are missing. -/
def execPpsHoldover (s : State) : Out :=
  if s.seq.ppsenAct && !s.isRelay then
    .next { s with seq := { s.seq with ppsLock := false, holdover := s.seq.holdover || s.seq.ppsLock,
                                       ppsRun := 0, ppsMiss := 2, lastPps := none } }
  else .next s

end Sys2Proof.Machine
end

