-- ==== Sys2Proof/Machine/Calib.lean ====
section
/-! DEFINITION. The calibration engine: elements, targets and applied values, steps, runs and the background
estimator (18_calibration). -/

namespace Sys2Proof.Machine

open Sys2Proof

/-! ### Elements (R394, R398) -/

def elemGet (l : List (Nat × Int)) (e : Nat) : Int :=
  match l.find? (fun x => x.1 == e) with
  | some x => x.2
  | none => 0

def elemSet (l : List (Nat × Int)) (e : Nat) (v : Int) : List (Nat × Int) :=
  if l.any (fun x => x.1 == e) then l.map (fun x => if x.1 = e then (e, v) else x) else l ++ [(e, v)]

/-- The elements of a part on an antenna; TXIQ and LOL have no antenna of their own, SYN and PADET no element. -/
def partElems (p : CalPart) (antB : Bool) : List Nat :=
  match p with
  | .adc => (List.range 24).map (fun k => (if antB then 24 else 0) + k)
  | .lna => (List.range 16).map (fun g => (if antB then 64 else 48) + g)
  | .txiq => [80, 81]
  | .lol => [82, 83]
  | .syn => []
  | .padet => []

/-- The range of an element's value (R394). -/
def elemRange (e : Nat) : Int × Int :=
  if e < 48 then (if e % 3 = 2 then (0, 63) else (-128, 127))
  else if e < 80 then (-1000, 100)
  else if e < 82 then (-128, 127)
  else (-64, 63)

def clampElem (e : Nat) (v : Int) : Int := max (elemRange e).1 (min (elemRange e).2 v)

/-- One step of an applied value towards its target (R397). -/
def stepTowards (a t : Int) : Int := if a < t then a + 1 else if a > t then a - 1 else a

/-- Set the targets a measurement gives for the elements of a step. -/
def Cal.setTargets (c : Cal) (es : List Nat) (m : List (Nat × Int)) : Cal :=
  { c with tgt := m.foldl (fun l x => if es.contains x.1 then elemSet l x.1 (clampElem x.1 x.2) else l) c.tgt }

/-- Does some element of a list still move? -/
def Cal.differs (c : Cal) (es : List Nat) : Bool := es.any (fun e => elemGet c.app e != elemGet c.tgt e)

def Cal.moving (c : Cal) : Bool := c.differs (List.range 84)

/-- Every applied value moves one step; a detector table measured before takes over (R397). -/
def Cal.stepApplied (c : Cal) : Cal :=
  { c with
    app := (List.range 84).foldl (fun l e =>
      let a := elemGet l e
      let t := elemGet c.tgt e
      if a = t then l else elemSet l e (stepTowards a t)) c.app,
    padet := c.padetNew.getD c.padet, padetNew := none }

/-- Results applied at once (R403). -/
def Cal.applyNow (c : Cal) : Cal := { c with app := c.tgt, padet := c.padetNew.getD c.padet, padetNew := none }

/-! ### Steps (R400 to R402, R407) -/

def allParts : List CalPart := [.adc, .lna, .txiq, .lol, .syn, .padet]

def twoAnt (p : CalPart) : Bool := p == .adc || p == .lna

/-- The figures of a measurement on an antenna's ADC, stale when an element of it was moving (R407). -/
def Cal.setFig (c : Cal) (antB : Bool) (f : AdcFig) : Cal :=
  let x := some (f, c.differs (partElems .adc antB))
  if antB then { c with adcB := x } else { c with adcA := x }

/-- The interleave figures that have been measured. -/
def Cal.adcFigs (c : Cal) : List (AdcFig × Bool) := c.adcA.toList ++ c.adcB.toList

/-- CAL_QSPUR: the worst spur of either antenna (R407); 0 before any has been measured. -/
def Cal.qspur (c : Cal) : Word :=
  match c.adcFigs.map (fun x => x.1.spur.toInt) with
  | [] => 0
  | x :: r => BitVec.ofInt 16 (r.foldl max x)

/-- CAL_QSKEW: the largest remaining timing error on either antenna (R407). -/
def Cal.qskew (c : Cal) : Word := BitVec.ofNat 16 ((c.adcFigs.map (fun x => x.1.skew.toNat)).foldl max 0)

/-- Was any figure measured while an element of its chain was moving (R407)? -/
def Cal.qStale (c : Cal) : Bool := c.adcFigs.any (·.2) || c.imgStale || c.lolStale

/-- The 8 points of a measured detector table; a point without a code keeps its old one (R394). -/
def Cal.points (c : Cal) (m : CalMeas) : List (BitVec 12) :=
  (List.range 8).map (fun k => m.padet.getD k (c.padet.getD k 0))

/-- What a completed step of a part changes in the block: figures, as the chain stood, and targets (R397, R407). -/
def Cal.measure (c : Cal) (p : CalPart) (antB : Bool) (m : CalMeas) (frame : BitVec 32) : Cal :=
  let es := partElems p antB
  let d := match p with
    | .adc => c.setFig antB (if antB then m.adcB else m.adcA)
    | .lna => c
    | .txiq => { c with qimg := m.img, imgStale := c.differs es }
    | .lol => { c with qlol := m.lol, lolStale := c.differs es }
    | .syn => c
    | .padet => { c with padetNew := some (c.points m) }
  { d.setTargets es m.targets with figFrame := frame }

/-- CAL_QSYN: the smallest MARGIN over the valid table entries, 0 when none is valid (R407). -/
def Syn.margin (y : Syn) : Nat :=
  let ms := y.table.filterMap (fun c =>
    if c.1 % 2 = 0 && bit c.2 15 then some (field (y.table.get0 (c.1 + 1)) 15 8) else none)
  match ms with
  | [] => 0
  | x :: r => r.foldl min x

/-- Does a step of a part need the synthesiser: the loopback's tone stands at its frequency (R394, R395)? -/
def needsSynth (p : CalPart) : Bool := p == .txiq || p == .lol

/-- The table entry and the carrier of the machine's own beacon channel: that of the plan in force, else of the base plan. -/
def State.beaconTune (s : State) : Option (BitVec 9 × Nat) :=
  match s.seq.cur with
  | some p =>
    let e := planEntry p 0
    some (entryIdx e, (chanCentre (s.cen e.win) e.bin (binsOf (planSlot p 0).cls)).toNat)
  | none => s.afw.current.bch.map (fun c =>
      (chanIdx c, (chanCentre (s.cen c.win) c.bin.toNat (binsOf (s.afw.current.classes.getD 0 1))).toNat))

/-- A step that needs the synthesiser tunes it to the beacon channel (R395), and its length has the start in it (R401).
Before any beacon channel is known there is none to tune to (log entry 41). -/
def State.tuneBeacon (s : State) (p : CalPart) : State :=
  if needsSynth p then
    match s.beaconTune with
    | some x => { s.synRun x.1 x.2 true with pwr := { s.pwr with txs := true } }
    | none => s
  else s

/-- The completed step of a part on an antenna with its measurement: SYN invalidates every table entry (R403). -/
def State.calMeasure (s : State) (p : CalPart) (antB : Bool) (m : CalMeas) : State :=
  let s := { s with cal := s.cal.measure p antB m s.seq.frame }
  if p = .syn then { s with syn := (s.syn.invalWindow false).invalWindow true } else s

/-- A clip event on its antenna discards an ADC or LNA step (R402). -/
def clipDiscards (p : CalPart) (antB : Bool) (m : CalMeas) : Bool := twoAnt p && m.clips.contains (p, antB)

/-- Clip events during the measurements (R147). -/
def State.noteClip (s : State) (m : CalMeas) : State :=
  let onA := m.clips.any (fun x => !x.2)
  let onB := m.clips.any (·.2)
  { s with rxw := { s.rxw with clipA := s.rxw.clipA || onA, clipB := s.rxw.clipB || onB,
                               slotClipA := s.rxw.slotClipA || onA, slotClipB := s.rxw.slotClipB || onB } }

/-- The steps of a list of parts, ADC and LNA on antenna A and then B (R403). -/
def partSteps (ps : List CalPart) : List (CalPart × Bool) :=
  ps.flatMap (fun p => if twoAnt p then [(p, false), (p, true)] else [(p, false)])

/-- Length of a step in Ticks (R401). -/
def stepTicks : CalPart → Nat
  | .adc => 39 | .lna => 39 | .txiq => 48 | .lol => 29 | .syn => 5 | .padet => 20

/-- The spans of steps made back to back from Tick t of the schedule on. -/
def spans (powerUp : Bool) : Nat → List (CalPart × Bool) → List CalStep
  | _, [] => []
  | t, x :: r => ⟨x.1, x.2, t, t + stepTicks x.1, powerUp⟩ :: spans powerUp (t + stepTicks x.1) r

/-- Steps run in their spans, during which outputs are held (R401, R406); those of earlier slots are over. -/
def State.runSteps (s : State) (l : List CalStep) : State :=
  { s with cal := { s.cal with steps := s.cal.steps.filter (fun x => decide (s.now < x.stop + 1200)) ++ l } }

/-- Every part of a list measured back to back from Tick t on; a step that a clip event discards is left to run again (R400,
R402, R403). -/
def State.measureParts (s : State) (ps : List CalPart) (t : Nat) (powerUp : Bool) (m : CalMeas) : State :=
  let l := partSteps ps
  let u := (s.noteClip m).runSteps (spans powerUp t l)
  let u := l.foldl (fun (u : State) x =>
    if clipDiscards x.1 x.2 m then u else (u.tuneBeacon x.1).calMeasure x.1 x.2 m) u
  { u with cal := { u.cal with redo := l.filter (fun x => clipDiscards x.1 x.2 m) } }

/-! ### Runs (R403 to R405) -/

def startRun (k : RunKind) (ps need : List CalPart) : CalRun :=
  { kind := k, pend := partSteps (allParts.filter (fun p => ps.contains p)), again := [], done := [], need := need }

/-- Does a run still wait for a step, or for some step of a part? -/
def CalRun.waits (r : CalRun) (x : CalPart × Bool) : Bool := r.pend.contains x || r.again.contains x
def CalRun.waitsFor (r : CalRun) (p : CalPart) : Bool := (r.pend ++ r.again).any (fun x => x.1 == p)

/-- A request of parts (R405): starts a run, or joins the one in progress; none starts in safe-hold (R426). -/
def State.calRequest (s : State) (ps need : List CalPart) : State :=
  if s.safe.on ∨ ps = [] then s
  else match s.cal.run with
    | none => { s with cal := { s.cal with run := some (startRun .requested ps need) } }
    | some r =>
      let add := allParts.filter (fun p => ps.contains p && !r.waitsFor p)
      let firsts := partSteps (add.filter (fun p => !r.done.contains p))
      { s with cal := { s.cal with run := some { r with
          pend := (partSteps allParts).filter (fun x => r.pend.contains x || firsts.contains x),
          again := r.again ++ partSteps (add.filter (fun p => r.done.contains p)),
          need := r.need ++ need.filter (fun p => !r.need.contains p) } } }

/-- The next step of a run: the pending ones in order, then the repeated ones. -/
def CalRun.next? (r : CalRun) : Option (CalPart × Bool) := (r.pend ++ r.again).head?

/-- The run after a step has been made: its part is measured with its last step. -/
def CalRun.measured (r : CalRun) (x : CalPart × Bool) : CalRun :=
  if r.pend.contains x then
    let rest := r.pend.erase x
    if rest.any (fun y => y.1 == x.1) then { r with pend := rest }
    else { r with pend := rest, done := r.done ++ [x.1], need := r.need.filter (· != x.1) }
  else if r.again.contains x then
    let rest := r.again.erase x
    { r with again := rest, need := if rest.any (fun y => y.1 == x.1) then r.need else r.need.filter (· != x.1) }
  else r

/-- Is a recovery run in progress (R403)? -/
def State.recovering (s : State) : Bool := match s.cal.run with | some r => r.kind == .recovery | none => false

/-- End of a run (R404): CAL_TREF follows for every kind but a requested run of some parts; after a recovery run it is the
temperature at the run (R409). -/
def State.calRunEnd (s : State) (temp : BitVec 10) : State :=
  match s.cal.run with
  | none => s
  | some r =>
    if r.next?.isSome then s
    else
      let all := allParts.all (fun p => r.done.contains p)
      let c := if r.kind = .requested ∧ ¬ all then s.cal
        else { s.cal with tref := if r.kind = .recovery then temp else s.cal.temp }
      let c := if r.kind = .recovery then c.applyNow else c
      { s with cal := { c with run := none } }

/-- The Ticks of the current slot at which a gap starts (R401): 16 in an X slot, 1,128 where no transmission follows and no W
run goes on. Every step fits either gap. -/
def State.gaps (s : State) : List Nat :=
  (if s.curRole = roleX ∧ ¬ s.searching then [16] else []) ++
    (if ¬ s.slotSends ((s.seq.slot.toNat + 1) % 8) ∧ ¬ s.insideWRun then [1128] else [])

/-- The gap that is still to come, or just begins, and in which no step has started. -/
def State.gap (s : State) : Option Nat :=
  let base := 1200 * s.seq.slot.toNat
  let t := s.seq.tick - base
  if s.seq.stopped then none
  else s.gaps.find? (fun g => decide (t ≤ g) && !s.cal.steps.any (fun x => x.start == s.now - t + g))

/-- A step begins in its gap; a recovery run's steps run back to back (R403). The antenna whose outputs it holds has STALE
measurements in the slot (R143, R401, R406). -/
def State.beginStep (s : State) (p : CalPart) (antB : Bool) : State :=
  let s := match s.gap with
    | some g => { s with seq := { s.seq with tick := 1200 * s.seq.slot.toNat + g } }
    | none => s
  let t := if s.recovering then s.cal.steps.foldl (fun t x => max t x.stop) s.now else s.now
  let held (ant : Ant) : Bool := (CalStep.mk p antB t t false).holds ant
  { s.runSteps (spans false t [(p, antB)]) with
    rxw := { s.rxw with slotStaleA := s.rxw.slotStaleA || held .a, slotStaleB := s.rxw.slotStaleB || held .b } }

/-- May a step of a part begin now (R401, R403)? One that needs the synthesiser waits for its calibration (R395). In
safe-hold none runs (R405). -/
def State.stepMayRun (s : State) (p : CalPart) : Bool :=
  !s.safe.on && (s.gap.isSome || s.recovering) && !(needsSynth p && s.syn.on && !s.syn.lock && s.syn.fullCal)

/-- The step to make next: a discarded one first, then that of the run in progress; a recovery run leaves discarded ones for
the gaps to come. -/
def State.nextStep (s : State) : Option (CalPart × Bool) :=
  (if s.recovering then none else s.cal.redo.head?).or (s.cal.run.bind CalRun.next?)

/-- The step x is no longer due: it has been made. -/
def Cal.made (c : Cal) (x : CalPart × Bool) : Cal :=
  { c with redo := c.redo.erase x, run := c.run.map (fun r => r.measured x) }

/-- A pending calibration step runs (R401 to R405). One that a clip event discards runs again in the next gap or C slot; a
recovery run, which has no gap to wait for, goes on without it. -/
def State.calStep (s : State) (m : CalMeas) : State :=
  match s.nextStep with
  | none => s.calRunEnd m.temp
  | some x =>
    if !s.stepMayRun x.1 then s
    else
      let t := (s.beginStep x.1 x.2).noteClip m
      if !clipDiscards x.1 x.2 m then
        let u := (t.tuneBeacon x.1).calMeasure x.1 x.2 m
        ({ u with cal := u.cal.made x }).calRunEnd m.temp
      else if s.recovering then
        ({ t with cal := { t.cal.made x with redo := (t.cal.made x).redo ++ [x] } }).calRunEnd m.temp
      else t

/-- The parts of a C slot (R400): every part but SYN, in order. -/
def cSlotParts : List CalPart := [.adc, .lna, .txiq, .lol, .padet]

/-- Has a step started in the current slot? -/
def State.slotWorked (s : State) : Bool :=
  s.cal.steps.any (fun x => decide (s.now - (s.seq.tick - 1200 * s.seq.slot.toNat) ≤ x.start))

/-- A C slot's work (R400), back to back from Tick 16 on, so that it ends by Tick 1,000 (R142): every part measured on its
antennas. A step that a run still waits for counts as made in it; a discarded one stays in the run, or runs again outside it
(R402). -/
def State.calSlot (s : State) (m : CalMeas) : State :=
  let s := { s with seq := { s.seq with tick := max s.seq.tick (1200 * s.seq.slot.toNat + 16) } }
  let t := s.measureParts cSlotParts s.now false m
  let made := (partSteps cSlotParts).filter (fun x => !clipDiscards x.1 x.2 m)
  let run := t.cal.run.map (fun r => made.foldl CalRun.measured r)
  let due (x : CalPart × Bool) : Bool := match run with | some r => r.waits x | none => false
  ({ t with cal := { t.cal with run := run, redo := t.cal.redo.filter (fun x => !due x) } }).calRunEnd m.temp

/-! ### Frame boundary (R397, R399, R404) -/

/-- |a − b| of two readings in 0.25 °C. -/
def tempDiff (a b : BitVec 10) : Nat := (a.toInt - b.toInt).natAbs

def tdelta (w : Word) : Nat := field w 15 11

/-- The temperature trigger (R404). -/
def State.calTrigger (s : State) : State :=
  let d := tdelta s.cal.cfg
  if d ≠ 0 ∧ s.cal.run = none ∧ ¬ s.safe.on ∧ ¬ s.tempHeld ∧ tempDiff s.cal.temp s.cal.tref > 4 * d then
    { s with cal := { s.cal with run := some (startRun .triggered allParts []) } }
  else s

/-- The background estimator of an antenna after 64 slots: the figures of its chain as it stood, and the OFS, GAIN and SKEW
targets (R399, R407). -/
def Cal.estimateAnt (c : Cal) (antB : Bool) (est : EstMeas) (frame : BitVec 32) : Cal :=
  { (c.setFig antB (if antB then est.adcB else est.adcA)).setTargets (partElems .adc antB) est.targets with figFrame := frame }

/-- The estimators whose averages are complete (R399). -/
def Cal.estimate (c : Cal) (est : EstMeas) (frame : BitVec 32) : Cal :=
  let c := if c.estA ≥ 64 then { c.estimateAnt false est frame with estA := 0, estNewA := false } else c
  if c.estB ≥ 64 then { c.estimateAnt true est frame with estB := 0, estNewB := false } else c

/-- The calibration engine at a frame boundary: reading, trigger, applied values, estimator. -/
def State.calFrame (s : State) (temp : BitVec 10) (vpa : BitVec 13) (est : EstMeas) : State :=
  let c := s.cal.stepApplied
  let c := if s.tempHeld then c else { c with temp := temp, vpa := vpa }
  let c := if s.safe.on then c else c.estimate est s.seq.frame
  ({ s with cal := c }).calTrigger

/-- Is the current slot a receive slot (R24, R399): U, D and P, in Relay mode B and K too, and every slot of a relay's search
(R212)? -/
def State.receiveSlot (s : State) : Bool :=
  let r := s.curRole
  (s.searching && r != roleC) || r == roleU || r == roleD || r == roleP || ((r == roleB || r == roleK) && s.isRelay)

/-- A receive slot that ended counts for the estimator of each antenna without a clip event (R399). -/
def State.countEstimate (s : State) : State :=
  if s.safe.on || !s.receiveSlot || (s.rxw.blankAll && s.tx.txOn) then s
  else { s with cal := { s.cal with
      estA := if s.rxw.slotClipA then s.cal.estA else min 64 (s.cal.estA + 1),
      estB := if s.rxw.slotClipB then s.cal.estB else min 64 (s.cal.estB + 1) } }

/-- CAL_CFG as a register write: a TDELTA above 20 is ignored. -/
def State.calCfg (s : State) (v : Word) : State :=
  if tdelta v > 20 then s else { s with cal := { s.cal with cfg := v &&& 0xF800 } }

/-- CAL_CMD as a register write. -/
def State.calCmd (s : State) (v : Word) : State := s.calRequest (allParts.filter (fun p => bit v p.bit)) []

/-! ### Meanings -/

/-- SLOT_BOUNDARY (R20): the next slot starts; at slot 0 it follows FRAME_BOUNDARY, which has counted slot 7. With the
sequencer stopped in STANDBY only Tick and slot go on; in SLEEP they stand still (R11). -/
def execSlotBoundary (s : State) : Out :=
  let n : BitVec 3 := s.seq.slot + 1
  if s.pwr.state = .sleep then .next s
  else if s.seq.stopped then .next { s with seq := { s.seq with slot := n, tick := 1200 * n.toNat } }
  else
    let s := if s.seq.slot = 7 then s else s.countEstimate
    let t := { s with
      seq := { s.seq with slot := n, tick := 1200 * n.toNat },
      clk := { s.clk with rxHold := s.clk.rxHold && !s.clk.lock } }
    .next ((((t.applyCentres).applyAgc n).applyLanes).applyDomains |>.raiseAll 1)

def execCalCmdAdc (s : State) : Out := .next (s.calRequest [.adc] [])
def execCalCmdLna (s : State) : Out := .next (s.calRequest [.lna] [])
def execCalCmdTxiq (s : State) : Out := .next (s.calRequest [.txiq] [])
def execCalCmdLol (s : State) : Out := .next (s.calRequest [.lol] [])
def execCalCmdSyn (s : State) : Out := .next (s.calRequest [.syn] [])
def execCalCmdPadet (s : State) : Out := .next (s.calRequest [.padet] [])
def execCalCfgWrite (v : Word) (s : State) : Out := .next (s.calCfg v)

end Sys2Proof.Machine
end

