-- ==== Sys2Proof/Machine/Power.lean ====
section
/-! DEFINITION. Resets and the boot record, power states, domains, banks, the retention set and wakes
(17_power, R410 to R413, R439). -/

namespace Sys2Proof.Machine

open Sys2Proof

/-! ### Resets (R410 to R414) -/

/-- A new event of undefined contents in every bank that is on (R411), under a number of its own; a bank that was off
comes back fresh (R368), and the key region keeps its cells. -/
def Sram.undefine (m : Sram) (on : Byte) : Sram :=
  { m with cells := m.cells.drop (· < keyBase),
           undef := Vector.ofFn (fun b => if on.getLsbD b.val then m.events + 1 else 0), events := m.events + 1,
           resv := none, ring := none, cleared := false,
           bad := m.bad.filter (keyBase ≤ ·), single := m.single.filter (keyBase ≤ ·) }

/-- The key region comes back fresh (R202). -/
def Sram.dropKeys (m : Sram) : Sram :=
  { m with cells := m.cells.drop (keyBase ≤ ·), bad := m.bad.filter (· < keyBase),
           single := m.single.filter (· < keyBase) }

/-- AFW's clearing of the tables it uses (R411). -/
def Sram.clear (m : Sram) : Sram :=
  { m with cleared := true, ring := none, cells := m.cells.drop (fun a => a < 0x388000 || logArea a) }

/-- The sequencer counters taken up from the frame record: Tick 0 of the frame after it (R412). A relay ignores the kept
lengths and has no PLAN page yet (R44). -/
def Seq.fromRecord (relay : Bool) (r : FrameRec) : Seq :=
  let q : Seq := { frame := r.frame, fic := r.fic, cir := r.cir, rot := r.rot, cycLen := r.cycLen, rotLen := r.rotLen,
                   cycPend := r.cycPend, rotPend := r.rotPend }
  if relay then q.advanceRelay none else q.advanceFrame

/-- The counters that run on through a reset of code 0x2, 0x3 or 0x5, and through STANDBY (R11, R383, R412); the plan store
and the registers take their reset values. -/
def Seq.runOn (q : Seq) : Seq :=
  { frame := q.frame, fic := q.fic, cir := q.cir, rot := q.rot, cycLen := q.cycLen, rotLen := q.rotLen,
    cycPend := q.cycPend, rotPend := q.rotPend, tick := q.tick, slot := q.slot, extra := q.ext,
    absRef := q.absRef }

/-- The local and program RAM of a core, the rest at its reset value. -/
def Core.memories (k : Core) : Core :=
  { lram := k.lram, lramBad := k.lramBad, lramSingle := k.lramSingle, pram := k.pram, pramBad := k.pramBad,
    pramSingle := k.pramSingle }

/-- The always-on items that a reset keeps, with the boot counter and the cause (R411, R413). -/
def Aon.afterReset (a : Aon) (code : BitVec 4) : Aon := { a with boot := a.boot + 1, resetCause := code }

/-- The counters after a reset in which the reference stopped: those of the frame record, taken up when the PLL locks. -/
def State.takeRecord (s : State) : Seq :=
  match s.aon.frec with
  | some r => Seq.fromRecord s.isRelay r
  | none => {}

/-- A reset of R410 that is no cold start. `stops` says that the reference stops (codes 0x0, 0x1, 0x4): the frame that
begins when the PLL locks is recorded then; in the others the record stands (R412). Calibration starts from factory trim
(R411); a firmware restart keeps the targets already set (R405). -/
def State.reset410 (s : State) (code : BitVec 4) (bootsel keysLost noLoad : Bool) : State :=
  let stops := code = 0 ∨ code = 1 ∨ code = 4
  let m := s.sram.undefine s.pwr.bankOn
  let a := s.aon.afterReset code
  { aon := if stops then { a with frec := some s.takeRecord.record } else a,
    otp := s.otp,
    gate := s.gate,
    modeFlash := s.modeFlash,
    district := s.district,
    free := s.free,
    pending := s.pending,
    sram := if keysLost then m.dropKeys else m,
    seq := if stops then s.takeRecord else s.seq.runOn,
    clk := if stops then { tcxo := s.clk.tcxo }
      else { lock := s.clk.lock, ticksrc := s.clk.ticksrc, tickAt := s.clk.tickAt, tickWas := s.clk.tickWas,
             xordy := s.clk.xordy, tcxo := s.clk.tcxo },
    boot := { stage := if bootsel && !noLoad then .hostLoad else .image, bootsel := bootsel, noLoad := noLoad },
    img := if noLoad then s.img else {},
    cores := if noLoad then s.cores.map (fun k => k.memories)
             else Vector.replicate 7 {},
    sys := if noLoad then { wdTicks := s.sys.wdTicks } else {},
    cal := if code = 5 then { s.otp.trim.start with tgt := s.cal.tgt, padetNew := s.cal.padetNew } else s.otp.trim.start,
    pwr := { pll := true } }

/-- TMON runs once the reference and the PLL are up; the region record is loaded into the gate (R178, R419). -/
def State.tmonBoot (s : State) : State :=
  let t := s.modCore .t (fun k => { k with run := .running })
  let ok := s.otp.region.isSome
  ({ t with
           clk := { s.clk with lock := true, xordy := true },
           pwr := { s.pwr with pll := true },
           tx := { s.tx with regLock := ok, extPa := regionExt (s.otp.region.getD []) },
           aon := { s.aon with bslot := s.aon.bslot && s.hasKey (bslotEntry s.aon.bslot) } } : State).selectTick false

/-- A reset with TMON's first boot steps. -/
def State.deviceReset (s : State) (code : BitVec 4) (bootsel keysLost noLoad : Bool) : State :=
  (s.reset410 code bootsel keysLost noLoad).tmonBoot

/-- The level of a strap pin that no operand gives: a free value, another at each sample (log entry 71). -/
def State.strapLevel (s : State) : Bool := bit (Config.freeWord s.free) 0

/-- A reset of code 0x2, 0x3 or 0x5, or a wake: BOOTSEL is sampled anew (R418). -/
def State.sampledReset (s : State) (code : BitVec 4) (keysLost noLoad : Bool) : State :=
  ({ s with free := s.free + 1 }).deviceReset code s.strapLevel keysLost noLoad

/-- MODE_SET: the mode block goes to the always-on memory and the flash, and the firmware restarts (R19, R284). -/
def State.modeRestart (s : State) (b : List Word) : State :=
  ({ s with aon := { s.aon with mode := some b }, modeFlash := some b }).sampledReset 5 false false

/-- A cold start (R180, R411): every item from its reset value, the banks fresh, the duty store filled. -/
def State.coldStart (s : State) (x : Straps) : State :=
  let t : State := { otp := s.otp, modeFlash := s.modeFlash, district := s.district, free := s.free, pending := s.pending,
                     boot := { stage := if x.bootsel then .hostLoad else .image, bootsel := x.bootsel },
                     clk := { tcxo := x.xoGround }, cal := s.otp.trim.start,
                     pwr := { pll := true }, gate := ({} : Gate).fill 0, sram := { events := s.sram.events + 1 },
                     aon := { boot := 1, mode := s.modeFlash, frec := some ({} : Seq).record } }
  t.tmonBoot

/-- A reset that samples the straps anew and starts the reference (R418, R453). -/
def State.strapReset (s : State) (code : BitVec 4) (x : Straps) (keysLost : Bool) : State :=
  ({ s with clk := { s.clk with tcxo := x.xoGround } }).deviceReset code x.bootsel keysLost false

/-- POWER_ON_RESET (R415, R418): with VDD_AON lost a cold start, else a reset with code 0x0. The key region is lost
with VDD_CORE (R202). -/
def execPowerOnReset (aonLost : Bool) (x : Straps) (s : State) : Out :=
  .next (if aonLost then s.coldStart x else s.strapReset 0 x true)

/-- NRESET (R417): a low pulse of 10 µs or more resets, one below 2 µs never does, and one between may or may not:
which, is a free value. -/
def execNreset (ns : Nat) (x : Straps) (coreLost : Bool) (s : State) : Out :=
  if ns ≥ 10000 then .next (s.strapReset 1 x coreLost)
  else if ns < 2000 then .next s
  else
    let r := s.takeFree
    if bit r.1 0 then .next (r.2.strapReset 1 x coreLost) else .next r.2

/-! ### Run states (R379 to R381) -/

/-- The next slot boundary whose commit point lies after now and that is not inside a W run (R382). -/
def State.entryBoundary (s : State) : BitVec 3 :=
  let ok (n : Nat) : Bool :=
    1200 * n > s.seq.tick + 19 && !(let p := s.seq.cur.getD []
      n ≤ s.lastW && (planSlot p n).role == roleW && wFirst p n != n)
  match [1, 2, 3, 4, 5, 6, 7].find? ok with
  | some n => BitVec.ofNat 3 n
  | none => if s.seq.schedTick < 9581 then 0 else 1

/-- A write of PWR_CTL (R380, R382, R386, R392); ignored while ENTERING; in STANDBY and SLEEP no core runs. -/
def State.pwrCtl (s : State) (st : Nat) : State :=
  if s.pwr.entering || s.pwr.state == .standby || s.pwr.state == .sleep then s
  else
    let t := { s with pwr := { s.pwr with ctl := BitVec.ofNat 2 st } }
    if st = 0 then
      ({ t with pwr := { t.pwr with state := .run } }).modCores CoreId.apps
        (fun (k : Core) => if k.run == CoreRun.gated then { k with run := .running } else k)
    else if st = 1 then { t with pwr := { t.pwr with state := .doze } }
    else { t with pwr := { t.pwr with entering := true, toSleep := decide (st = 3) },
                  seq := { t.seq with arm := 0, armBlock := true, entrySlot := some s.entryBoundary } }

def execPwrCtlRun (s : State) : Out := .next (s.pwrCtl 0)
def execPwrCtlDoze (s : State) : Out := .next (s.pwrCtl 1)
def execPwrCtlStandby (s : State) : Out := .next (s.pwrCtl 2)
def execPwrCtlSleep (s : State) : Out := .next (s.pwrCtl 3)

/-- A write of PWR_IDLE (R381): in DOZE the core's clock is gated unless a line it enables is pending. -/
def State.pwrIdle (s : State) (c : CoreId) (v : Word) : State :=
  let k := s.core c
  if bit v 0 && s.pwr.state == .doze && k.run == .running && !c.isT && (s.ipend c &&& k.imask) == 0 then
    s.setCore c { k with run := .gated }
  else s

def execPwrIdleWrite (c : CoreId) (v : Word) (s : State) : Out := .next (s.pwrIdle c v)

/-- IDLE_WAKE (R381): a line with its IPEND and IMASK bits set restarts a gated core's clock. -/
def execIdleWake (c : CoreId) (s : State) : Out :=
  let k := s.core c
  if k.run == .gated && (s.ipend c &&& k.imask) != 0 then .next (s.setCore c { k with run := .running }) else .next s

/-! ### Banks and drains (R389, R392) -/

/-- Is a transfer in flight to or from a bank: a Port M command with a buffer there, in whole or in part? -/
def State.bankBusy (s : State) (b : Nat) : Bool :=
  match s.portm.run with
  | none => false
  | some c => (!c.txOff && inBank c.tx c.len b) || (!c.rxOff && inBank c.rx c.len b)

/-- Turn a bank off now, or after the drain. -/
def State.bankRequestOff (s : State) (b : Nat) : State :=
  if h : b < 8 then
    (if s.bankBusy b then { s with pwr := { s.pwr with draining := s.pwr.draining ++ [.ledger ⟨b, h⟩] } }
     else s.bankOff b)
  else s

def State.pwrBankoff (s : State) (v : Word) : State :=
  (List.range 8).foldl (fun s b => if bit v b then s.bankRequestOff b else s) s

def execPwrBankoffWrite (v : Word) (s : State) : Out := .next (s.pwrBankoff v)

/-! ### Entry (R382, R386, R390) -/

/-- The queues that the firmware names for the characters of a port: received, and to send (log entry 15). -/
def afwRxq : MPort → BitVec 5
  | .a => 20 | .b => 22 | .s => 24

def afwTxq : MPort → BitVec 5
  | .a => 21 | .b => 23 | .s => 25

/-- The queues of the time port. -/
def timeRxq : BitVec 5 := 26
def timeTxq : BitVec 5 := 27

/-- The queues that a port's CFG register names. -/
def rxq (cfg : Word) : BitVec 5 := cfg.setWidth 5
def txq (cfg : Word) : BitVec 5 := (cfg >>> 5).setWidth 5

/-- An output queue after its next character has left. -/
def dropChar : List OutLine → List OutLine
  | [] => []
  | o :: r => if o.sent + 1 ≥ o.text.length then r else { o with sent := o.sent + 1 } :: r

/-- The character that a UART sends when its domain powers down is completed (R389): of AFW's lines, where the transmit
queue is the one that AFW named. Of another queue it was the oldest word, and the queue RAM keeps none of them. -/
def Uart.drained (u : Uart) (own : BitVec 5) : Uart :=
  if bit u.cfg 15 && txq u.cfg == own then { u with l := { u.l with out := dropChar u.l.out } } else u

/-- A queue as an enabling write leaves it (R370). -/
def queueOn (base size thr : Nat) (words : List Word) : Queue :=
  { base := BitVec.ofNat 9 base, en := true, sizeM1 := BitVec.ofNat 9 (size - 1), thr := BitVec.ofNat 16 thr,
    words := words.map (fun v => ⟨v, false, false⟩) }

/-- The port queues, one granule each, and two for GT_TXD, which takes any sentence whole (R362). -/
def State.portQueues (s : State) : State :=
  let t := (List.range 8).foldl (fun (t : State) i => t.setQueue (BitVec.ofNat 5 (20 + i)) (queueOn (160 + i) 1 1 [])) s
  t.setQueue timeTxq (queueOn 168 2 1 [])

/-- The queues of the shipped AFW: 3 free buffers and 4 descriptors (20_register_map), 31 transmit results (log
entry 15). -/
def bufQ : BitVec 5 := 3
def descQ : BitVec 5 := 4
def resQ : BitVec 5 := 31

/-- The entries of the 8,192 packet buffers (R157, R183). -/
def freeBuffers : List Word := (List.range' 0 8192).map (fun i => BitVec.ofNat 16 (0x8000 + i))

/-- AFW builds its queues with the free buffers in theirs, sets core A1's lines for them and line SLOT on every core, and
enables its wake sources: at every start, and on a wake from STANDBY (R381, R385, R391, 20_register_map). -/
def State.afwQueues (s : State) : State :=
  let t := s.setQueue bufQ (queueOn 0 128 256 freeBuffers)
  let t := t.setQueue descQ (queueOn 128 16 1 [])
  let t := (t.setQueue resQ (queueOn 144 1 1 [])).portQueues
  let t := t.modCores CoreId.apps (fun k => if k.run == .running then { k with imask := k.imask ||| 2 } else k)
  let t := t.modCore .a1 (fun k => if k.run == .running then
    { k with qevsel := (k.qevsel.set 0 0xD003).set 1 0x8004, imask := 0x0306, cst := k.cst ||| 0x1000 } else k)
  { t with pwr := { t.pwr with wakecfg := 0xD800 } }

/-- Characters of a list of lines that have not left. -/
def outChars (out : List OutLine) : Nat := out.foldl (fun n o => n + (o.text.length - o.sent)) 0

/-- What Port S shows of its queue (R346, R348, R350): the released characters, EVT and SS_ATTN. -/
def PortS.refresh (p : PortS) (delta : Int) : PortS :=
  let avl := max 0 (min 65535 ((p.txavl.toNat : Int) + delta))
  { p with txavl := BitVec.ofInt 16 avl,
           sbEvt := p.l.out.any (fun o => o.cls.isSome),
           cfg := (p.cfg &&& 0xBFFF) ||| bitWord 14 (decide (0 < avl)) }

/-- What stays of a queue: BASE, CFG and THR, empty (R390). -/
def Queue.retained (q : Queue) : Queue := { base := q.base, en := q.en, sizeM1 := q.sizeM1, thr := q.thr }

/-- Switch the machine off into STANDBY or SLEEP after the drains (R382 step 4, R161). -/
def State.powerDown (s : State) : State :=
  let t := s.modCores CoreId.apps (fun k => { k with run := .held })
  let t := t.modCore .t (fun k => { k with run := .stopped })
  { t with
    clk := { (s.selectTick true).clk with lock := false },
    syn := { s.syn with on := false, lock := false },
    pins := { s.pins with trsw := ({ s.tx with cfgAct := s.tx.cfg } : TxRegs).trsw false, paEn := false },
    tx := { s.tx with txOn := false, vctl := 0 },
    que := { s.que with q := s.que.q.map Queue.retained },
    porta := s.porta.drained (afwTxq .a),
    portb := s.portb.drained (afwTxq .b),
    sys := { t.sys with wdOn := false, slow := [] },
    pwr := { s.pwr with pll := false, rxa := false, rxb := false, chan := false, txs := false, pa := false,
                        cores := 0, past := true, draining := [],
                        entering := s.pwr.toSleep, state := if s.pwr.toSleep then s.pwr.state else .standby } }

/-- STANDBY_ENTRY_BOUNDARY (R382 steps 3 and 4; R386 for SLEEP): the sequencer stops; banks that are not retained
turn off; a Port M transfer in flight drains first. -/
def execStandbyEntryBoundary (s : State) : Out :=
  if s.pwr.entering && !s.pwr.past && !s.safe.on then
    let slot := s.seq.entrySlot.getD 0
    let relay := s.isRelay
    let t := { s with
      seq := { s.seq with stopped := true, slot := slot, tick := 1200 * slot.toNat, cca := none, tx := none,
                          cur := none, next := none, pend := none },
      afw := { s.afw with base := none, nextBase := none,
                          relayEntries := if relay then [] else s.afw.relayEntries,
                          forwards := if relay then [] else s.afw.forwards } }
    let t := t.endCalRun
    if t.portm.run.isSome then
      .next { t with pwr := { t.pwr with draining := t.pwr.draining ++ [.ports] } }
    else
      let banks := (List.range 8).filter (fun b => s.pwr.toSleep || !s.pwr.bankcfg.getLsbD b)
      .next (banks.foldl (fun t b => t.bankOff b) t).powerDown
  else .next s

/-! ### Wakes (R384, R385, R387, R391) -/

/-- Is a wake source enabled in PWR_WAKECFG (R392)? -/
def wakeEnabled (cfg : Word) : WakeSrc → Bool
  | .wakeEdge => bit cfg 15 && !bit cfg 14
  | .uaRxd => bit cfg 12
  | .ssCsn => bit cfg 11
  | .ppsIn => bit cfg 10
  | .wakeLevel => bit cfg 15 && bit cfg 14

def wakeCode : WakeSrc → BitVec 3
  | .wakeEdge => 1 | .uaRxd => 2 | .ssCsn => 3 | .ppsIn => 4 | .wakeLevel => 5

/-- The part of the sequencer in the retention set (R390); the counters go on, and core T still knows how many plans it has
rejected in the Cycle (R42, R379). -/
def Seq.retained (q : Seq) : Seq :=
  { (q.runOn) with ppsen := q.ppsen, corrHist := q.corrHist, rstate := q.rstate, orphan := q.orphan,
                   safeUp := q.safeUp, miss := q.miss, hold := q.hold, rejInCycle := q.rejInCycle }

/-- A port's configuration registers and subscriptions; the output queue lies in bank 3 (R382, R390). -/
def Uart.retained (u : Uart) (bank3 : Bool) : Uart :=
  { cfg := u.cfg, div := u.div, divRx := u.div, divTx := u.div,
    l := { gen := u.l.gen, subs := u.l.subs, out := if bank3 then u.l.out else [] } }

/-- Port S after a wake: AFW adds the lines that bank 3 kept to PORTS_TXAVL again, and !READY stands as enqueued (R346,
R348, R382). -/
def PortS.retained (p : PortS) (bank3 : Bool) : PortS :=
  let q : PortS := { cfg := p.cfg &&& 0xBFFF, l := { gen := p.l.gen, subs := p.l.subs } }
  if bank3 then
    ({ q with sbReady := p.sbReady, l := { q.l with out := p.l.out } } : PortS).refresh (outChars p.l.out)
  else q

/-- The machine with the retention set restored and every other register at its reset value (R390, R439). Core T's clock
only stopped: it keeps its state, its private RAM and the work that it has set aside (R379). -/
def State.restored (s : State) (bank3 : Bool) : State :=
  { aon := s.aon, otp := s.otp, gate := s.gate, modeFlash := s.modeFlash, district := s.district, free := s.free, pending := s.pending,
    sram := s.sram,
    seq := s.seq.retained,
    clk := { lock := true, xordy := true, tcxo := s.clk.tcxo, tickAt := (s.selectTick false).clk.tickAt,
             tickWas := (s.selectTick false).clk.tickWas },
    rxw := { cen0 := s.rxw.cen0, cen1 := s.rxw.cen1, cenAct0 := s.rxw.cen0, cenAct1 := s.rxw.cen1,
             agcA := s.rxw.agcA, agcB := s.rxw.agcB, agcActA := s.rxw.agcA, agcActB := s.rxw.agcB },
    lane := { cfg := s.lane.cfg, cfgAct := s.lane.cfg, bufq := s.lane.bufq, bufqAct := s.lane.bufq,
              filt := s.lane.filt, filtAct := s.lane.filt, own := s.lane.own, ownAct := s.lane.own },
    tx := { cfg := s.tx.cfg, cfgAct := s.tx.cfg, cfgWritten := s.tx.cfgWritten, regLock := s.tx.regLock,
            extPa := s.tx.extPa },
    syn := { table := s.syn.applyInval.table },
    pins := { trsw := ({ s.tx with cfgAct := s.tx.cfg } : TxRegs).trsw false },
    cal := { app := s.cal.app, tgt := s.cal.tgt, padet := s.cal.padet, padetNew := s.cal.padetNew },
    que := { q := s.que.q.map Queue.retained },
    porta := s.porta.retained bank3,
    portb := s.portb.retained bank3,
    ports := s.ports.retained bank3,
    portm := { cfg := s.portm.cfg, dly := s.portm.dly, gap := s.portm.gap, txal := s.portm.txal,
               txah := s.portm.txah, rxal := s.portm.rxal, rxah := s.portm.rxah },
    timep := { cfg := s.timep.cfg },
    pwr := { planPtr := s.pwr.planPtr, pll := true, bankOn := 0xFF },
    cores := (s.cores.map (fun k => k.memories)).set CoreId.t.idx.val (s.core .t) CoreId.t.idx.isLt,
    img := s.img,
    sys := { wdTicks := s.sys.wdTicks, wmark := s.sys.wmark, dutyFrm := s.sys.dutyFrm, dutyTot := s.sys.dutyTot,
             setAside := s.sys.setAside },
    boot := { s.boot with stage := .up }, safe := s.safe,
    afw := s.afw, interp := { lastPort := s.interp.lastPort } }

/-- Release the cores named in CORES with the state of R228 and start the watchdog (R276, R284, R384). -/
def State.releaseCores (s : State) (cores : BitVec 6) : State :=
  let named (c : CoreId) : Bool := cores.getLsbD c.num
  let t := CoreId.apps.foldl (fun s c =>
    s.modCore c (fun k => if named c then k.released else { k with run := .held })) s
  { t with sys := { t.sys with released := cores, kicked := 0, wdLeft := t.sys.wdTicks, wdOn := true, fwLock := true },
           pwr := { t.pwr with cores := cores } }

/-- The plan that AFW reads from the ledger SRAM (R272): 1,280 words. -/
def State.readPlan (s : State) (a : Nat) : Memory :=
  (List.range 1280).foldl (fun p i => p.set0 i (s.rd (a + i))) []

/-- A machine t that boots on a wake, with the registers of the retention set, as r holds them, restored (R390). -/
def State.withRetained (t r : State) : State :=
  { t with
    rxw := r.rxw, lane := r.lane, tx := { r.tx with regLock := t.tx.regLock, extPa := t.tx.extPa }, syn := r.syn,
    pins := { t.pins with trsw := r.pins.trsw }, cal := r.cal, que := r.que, porta := r.porta, portb := r.portb,
    ports := r.ports, portm := r.portm, timep := r.timep, pwr := { t.pwr with planPtr := r.pwr.planPtr } }

/-- SEQ_TCFG.PPSEN is 0 after a reset (R423, R439). -/
def Seq.noPps (q : Seq) : Seq := { q with ppsen := false }

/-- A wake from STANDBY (R384, R385). With bank 3 retained AFW commits the plan of the plan pointer; without it the
firmware restarts without an image load, on the restored retention set. A relay enters HOLDOVER with MISS 0 (R214). -/
def State.wakeStandby (s : State) (w : WakeSrc) : State :=
  let bank3 := s.pwr.bankcfg.getLsbD 3
  if bank3 then
    let t := s.restored true
    let t := t.modCore .t (fun k => { k with run := .running })
    let t := (t.releaseCores s.img.cores).afwQueues
    let plan := t.readPlan s.pwr.planPtr.toNat
    let ok := s.pwr.planPtr ≠ 0 ∧ planFault t.region t.cenNew plan = none
    let t := { t with
      pwr := { t.pwr with resume := true, wsrc := wakeCode w, resuming := true, dueRoll := s.pwr.dueRoll },
      seq := { t.seq with
        pend := if ok then some { plan := plan, addr := s.pwr.planPtr, caller := none, validated := true,
                                  forCmd := false } else none,
        rstate := if s.isRelay then 3 else t.seq.rstate, miss := if s.isRelay then 0 else t.seq.miss,
        hold := 0, orphan := false },
      cal := { t.cal with run := some (startRun .recovery [.adc, .lna, .txiq, .lol, .padet] []) },
      ports := { t.ports with sbBusy := true },
      afw := if s.pwr.bankcfg.getLsbD 5 then t.afw else { t.afw with log := [] } }
    t
  else
    let r := s.restored false
    let t := { (s.sampledReset 5 (!s.pwr.bankcfg.getLsbD 7) true).withRetained r with seq := r.seq.noPps }
    { t with pwr := { t.pwr with wsrc := wakeCode w } }

/-- A wake from SLEEP (R387): the retention set, then the boot with code 0x4; every bank fresh. -/
def State.wakeSleep (s : State) : State :=
  let t := ({ s with free := s.free + 1, clk := { s.clk with tcxo := s.strapLevel } }).sampledReset 4 true false
  let r := s.restored false
  { t.withRetained r with
    sram := { events := s.sram.events + 1 },
    seq := { r.seq.noPps with
      tick := t.seq.tick, frame := t.seq.frame, fic := t.seq.fic, cir := t.seq.cir, rot := t.seq.rot,
      cycLen := t.seq.cycLen, rotLen := t.seq.rotLen, cycPend := t.seq.cycPend, rotPend := t.seq.rotPend, slot := 0,
      rstate := 0, miss := 0, hold := 0 } }

/-- A wake source acts (R391): in STANDBY and SLEEP it leads to RUN; during SLEEP's entry an edge in cycles 1 and 2 is
held, and a `late` one, in cycles 3 to 6, is lost (R386). -/
def State.wake (s : State) (w : WakeSrc) (late : Bool) : State :=
  if !wakeEnabled s.pwr.wakecfg w then s
  else if s.pwr.state = .standby then s.wakeStandby w
  else if s.pwr.state = .sleep then { s.wakeSleep with pwr := { s.wakeSleep.pwr with wsrc := wakeCode w } }
  else if s.pwr.past && s.pwr.toSleep && w != .wakeLevel && !late then { s with pwr := { s.pwr with heldWake := some w } }
  else s

/-- WAKE_SOURCE (R384, R387, R391). -/
def execWakeSource (w : WakeSrc) (late : Bool) (s : State) : Out := .next (s.wake w late)

/-- SLEEP_ENTRY_COMPLETE (R386): the end of cycle 6. The reference stops; a held edge or a WAKE pin at its active
level in level mode restarts at once. `wakePin` is the level of the pin. -/
def execSleepEntryComplete (wakePin : Bool) (s : State) : Out :=
  if s.pwr.past && s.pwr.toSleep && s.pwr.entering then
    let t := { s with
      pwr := { s.pwr with state := .sleep, entering := false, heldWake := none },
      clk := { s.clk with xordy := false, lock := false },
      pins := { s.pins with clkoutOn := false } }
    let active := wakePin != bit s.pwr.wakecfg 13
    match s.pwr.heldWake with
    | some w => .next (t.wake w false)
    | none => .next (if active then t.wake .wakeLevel false else t)
  else .next s

/-- DOMAIN_DRAIN_END (R389): the transfer is complete and the domain turns off; a port's drain lets entry go on. -/
def execDomainDrainEnd (d : Domain) (s : State) : Out :=
  if s.pwr.draining.contains d then
    let t := { s with pwr := { s.pwr with draining := s.pwr.draining.filter (· != d) } }
    match d with
    | .ledger b => .next (t.drainBank b.val)
    | .ports =>
      if t.pwr.entering && !t.pwr.past && t.seq.stopped then
        let banks := (List.range 8).filter (fun b => t.pwr.toSleep || !t.pwr.bankcfg.getLsbD b)
        let u : State := { t with portm := { t.portm with run := none, pend := none } }
        .next (banks.foldl (fun (t : State) b => t.bankOff b) u).powerDown
      else .next t
    | .pll => .next { t with pwr := { t.pwr with pll := false } }
    | .rxa => .next { t with pwr := { t.pwr with rxa := false } }
    | .rxb => .next { t with pwr := { t.pwr with rxb := false } }
    | .chan => .next { t with pwr := { t.pwr with chan := false } }
    | .txs => .next { t with pwr := { t.pwr with txs := false } }
    | .pa => .next { t with pwr := { t.pwr with pa := false } }
    | .core n => .next { t with pwr := { t.pwr with cores := t.pwr.cores &&& ~~~((1 : BitVec 6) <<< n.val) } }
    | .que => .next t
  else .next s

/-- TMON retries what it set aside for a domain (R278): core T stands at the instruction of the oldest such work again, and
calls that wait for the domain stand as rung again. -/
def State.retry (s : State) (d : Domain) : State :=
  let s := match d with
    | .ledger b => { s with sys := { s.sys with waiting := s.sys.waiting.filter (fun x => x.2 != b.val) } }
    | _ => s
  match s.sys.setAside.find? (fun e => e.dom == d) with
  | none => s
  | some e =>
    ({ s with sys := { s.sys with setAside := s.sys.setAside.erase e } }).modCore .t (fun k =>
      { k with pc := e.pc, cst := e.cst, branch := e.branch, rpt := e.rpt })

/-- DOMAIN_WAKE_COMPLETE (R278, R388): the domain serves accesses again, and TMON retries what it set aside. -/
def execDomainWakeComplete (d : Domain) (s : State) : Out :=
  let t := s.retry d
  match d with
  | .ledger b => .next ((t.settleBank b.val).wakeBank b.val)
  | .rxa => .next { t with pwr := { t.pwr with rxa := true } }
  | .rxb => .next { t with pwr := { t.pwr with rxb := true } }
  | .chan => .next { t with pwr := { t.pwr with chan := true } }
  | .txs => .next { t with pwr := { t.pwr with txs := true } }
  | .pa => .next { t with pwr := { t.pwr with pa := true } }
  | .pll => .next { t with pwr := { t.pwr with pll := true } }
  | .core n => .next { t with pwr := { t.pwr with cores := t.pwr.cores ||| ((1 : BitVec 6) <<< n.val) } }
  | .que => .next t
  | .ports => .next t

/-- PWR_STAT (R392). -/
def Pwr.stat (p : Pwr) : Word :=
  let st := match p.state with | .run => 0 | .doze => 1 | .standby => 2 | .sleep => 3
  place st 14 ||| bitWord 13 p.resume ||| bitWord 12 p.entering ||| p.wsrc.setWidth 16

/-- PWR_DOMSTAT (R392). -/
def Pwr.domstat (p : Pwr) : Word :=
  bitWord 15 p.pll ||| bitWord 14 p.rxa ||| bitWord 13 p.rxb ||| bitWord 12 p.chan ||| bitWord 11 p.txs |||
    bitWord 10 p.pa ||| place p.cores.toNat 4

end Sys2Proof.Machine
end

