-- ==== Sys2Proof/Machine/Lines.lean ====
section
/-! DEFINITION. Device lines: number forms, check codes, output queues, responses, events and the event log
(R286 to R310, R333, R337, R462). -/

namespace Sys2Proof.Machine

open Sys2Proof

/-! ### Number forms (R290) -/

def hexDigit (n : Nat) : Char := Char.ofNat (if n < 10 then 48 + n else 55 + n)

/-- k hex digits, upper case. -/
def hexN (k n : Nat) : String := String.ofList ((List.range k).map (fun i => hexDigit (n / 16 ^ (k - 1 - i) % 16)))

def hex0x (k n : Nat) : String := "0x" ++ hexN k n

/-- A result pair, with its leading space. -/
def kv (k v : String) : String := " " ++ k ++ "=" ++ v
def kvN (k : String) (n : Nat) : String := kv k (toString n)
def kvI (k : String) (n : Int) : String := kv k (toString n)
def kvB (k : String) (b : Bool) : String := kv k (if b then "1" else "0")
def kvH (k : String) (w n : Nat) : String := kv k (hex0x w n)
/-- A frame number as `f<n>`. -/
def kvF (k : String) (n : Nat) : String := kv k ("f" ++ toString n)

/-- A number of quarters with two decimals, and of halves or tenths with one. -/
def quarters (v : Int) : String :=
  (if v < 0 then "-" else "") ++ toString (v.natAbs / 4) ++
    (match v.natAbs % 4 with | 0 => ".00" | 1 => ".25" | 2 => ".50" | _ => ".75")
def halves (v : Int) : String :=
  (if v < 0 then "-" else "") ++ toString (v.natAbs / 2) ++ (if v.natAbs % 2 = 0 then ".0" else ".5")
def tenths (v : Int) : String :=
  (if v < 0 then "-" else "") ++ toString (v.natAbs / 10) ++ "." ++ toString (v.natAbs % 10)

def joinWith (sep : String) : List String → String
  | [] => ""
  | [x] => x
  | x :: r => x ++ sep ++ joinWith sep r

def channelText (c : Chan) : String := "W" ++ (if c.win then "1" else "0") ++ "B" ++ toString c.bin.toNat

/-! ### UTC (R45, R290) -/

/-- Civil date of a day number counted from 2000-01-01. -/
def civilOf (days : Nat) : Nat × Nat × Nat :=
  let z := days + 730425
  let era := z / 146097
  let doe := z % 146097
  let yoe := (doe - doe / 1460 + doe / 36524 - doe / 146096) / 365
  let doy := doe - (365 * yoe + yoe / 4 - yoe / 100)
  let mp := (5 * doy + 2) / 153
  let m := if mp < 10 then mp + 3 else mp - 9
  (yoe + era * 400 + (if m ≤ 2 then 1 else 0), m, doy - (153 * mp + 2) / 5 + 1)

/-- Day number from 2000-01-01 of a civil date. -/
def daysOf (y m d : Nat) : Int :=
  let y' := if m ≤ 2 then y - 1 else y
  let mp := if m > 2 then m - 3 else m + 9
  (y' / 400 * 146097 + (y' % 400 * 365 + y' % 400 / 4 - y' % 400 / 100) + (153 * mp + 2) / 5 + d - 1 : Nat) - 730425

def dec2 (n : Nat) : String := (if n < 10 then "0" else "") ++ toString n

/-- Seconds since 2000-01-01 as ISO 8601 UTC. -/
def utcText (secs : Nat) : String :=
  let c := civilOf (secs / 86400)
  let t := secs % 86400
  toString c.1 ++ "-" ++ dec2 c.2.1 ++ "-" ++ dec2 c.2.2 ++ "T" ++ dec2 (t / 3600) ++ ":" ++ dec2 (t / 60 % 60) ++ ":" ++
    dec2 (t % 60) ++ "Z"

/-! ### Check codes and tags (R294, R296) -/

def charByte (c : Char) : Byte := BitVec.ofNat 8 c.toNat

def strBytes (s : String) : List Byte := s.toList.map charByte

/-- CRC-16/CCITT-FALSE of a text. -/
def strCrc (s : String) : Word := crc16 0xFFFF (strBytes s)

/-- A device line in the form of its port's mode, with CR LF: in generated mode the check code covers every character
after the first. -/
def lineText (gen : Bool) (body : String) : String :=
  if gen then body ++ "*" ++ hexN 4 (strCrc (String.ofList (body.toList.drop 1))).toNat ++ "\r\n" else body ++ "\r\n"

/-- A valid tag (R294). -/
def tagOk (t : List Char) : Bool :=
  1 ≤ t.length && t.length ≤ 8 && t.all (fun c => ('0' ≤ c && c ≤ '9') || ('A' ≤ c && c ≤ 'Z') || ('a' ≤ c && c ≤ 'z'))

/-- The tag of a generated line, when it begins with `#`, a valid tag and a space. -/
def tagOf (line : String) : Option String :=
  match line.toList with
  | '#' :: r =>
    let t := r.takeWhile (· != ' ')
    if tagOk t && (r.drop t.length).head? == some ' ' then some (String.ofList t) else none
  | _ => none

/-- A response line under the tag of its command. -/
def tagged (tag : String) (body : String) : String := if tag = "" then body else "#" ++ tag ++ " " ++ body

/-! ### Ports -/

def State.lines (s : State) : MPort → Lines
  | .a => s.porta.l
  | .b => s.portb.l
  | .s => s.ports.l

def State.setLines (s : State) (p : MPort) (l : Lines) : State :=
  match p with
  | .a => { s with porta := { s.porta with l := l } }
  | .b => { s with portb := { s.portb with l := l } }
  | .s => { s with ports := { s.ports with l := l } }

def allPorts : List MPort := [.a, .b, .s]

def Lines.used (l : Lines) : Nat := outChars l.out

/-- Limits of the output queue of 16,384 characters (R307). -/
def limitResponse : Nat := 16224
def limitEvent : Nat := 15360
def limitReady : Nat := 16304

/-- ALERT of a UART port while an event line is queued (R343). -/
def Uart.setAlert (u : Uart) (v : Bool) : Uart := { u with cfg := (u.cfg &&& 0xDFFF) ||| bitWord 13 v }

/-- Set the output queue of a port, with what the port shows of it. -/
def State.setOut (s : State) (p : MPort) (out : List OutLine) : State :=
  let l := s.lines p
  let d : Int := (outChars out : Int) - (outChars l.out : Int)
  let t := s.setLines p { l with out := out }
  match p with
  | .a => t
  | .b => t
  | .s => { t with ports := t.ports.refresh d }

/-- On Port A in typed mode a line that meets a partial host line stands on its own, and the partial line is echoed
again after it (R293). -/
def State.wrapEcho (s : State) (p : MPort) (text : String) : String :=
  let l := s.lines p
  if p = .a ∧ l.gen = false ∧ l.partialRev ≠ [] then "\r\n" ++ text ++ String.ofList l.partialRev.reverse else text

/-- The characters that a line takes up on a port. -/
def State.lineChars (s : State) (p : MPort) (body : String) : Nat := (s.wrapEcho p (lineText (s.lines p).gen body)).length

/-- Append a whole line to a port's queue; an event sets the port's alert (R343). -/
def State.putLine (s : State) (p : MPort) (cls : Option EvClass) (mark : Bool) (body : String) : State :=
  let l := s.lines p
  let t := s.setOut p (l.out ++ [{ cls := cls, text := s.wrapEcho p (lineText l.gen body), mark := mark }])
  if cls.isSome then
    match p with
    | .a => { t with porta := t.porta.setAlert true }
    | .b => { t with portb := t.portb.setAlert true }
    | .s => t
  else t

/-- Echo (R292): Port A in typed mode only. -/
def State.echo (s : State) (p : MPort) (text : String) : State :=
  if p = .a ∧ (s.lines p).gen = false ∧ text ≠ "" then
    s.setOut p ((s.lines p).out ++ [{ cls := none, text := text }])
  else s

/-! ### Room (R307, R308) -/

/-- Remove the oldest line of the given classes that has not started to be sent. -/
def dropOldest (cs : List EvClass) : List OutLine → Option (List OutLine)
  | [] => none
  | o :: r =>
    if o.sent = 0 ∧ (match o.cls with | some c => cs.contains c | none => false) = true then some r
    else (dropOldest cs r).map (o :: ·)

/-- Free room for n characters: !RPT and !LOG lines first, then !CAL lines, oldest first. -/
def freeRoom (limit n : Nat) : Nat → List OutLine → List OutLine
  | 0, out => out
  | k + 1, out =>
    if outChars out + n ≤ limit then out
    else match dropOldest [.rpt, .log] out with
      | some out' => freeRoom limit n k out'
      | none => match dropOldest [.cal] out with
        | some out' => freeRoom limit n k out'
        | none => out

def evProtects : EvClass → Bool
  | .ready => true | .safe => true | .disp => true | .alarm => true | .cal => false | .rpt => false | .log => false

/-- Enqueue an event line on one port; `seq` is its log entry, 0 for none. -/
def State.portEvent (s : State) (p : MPort) (cls : EvClass) (seq : Nat) (body : String) : State :=
  let l := s.lines p
  if cls = .ready ∨ cls = .safe then s.putLine p (some cls) false body
  else if l.subs.contains cls then
    let n := s.lineChars p body
    let out := freeRoom limitEvent n l.out.length l.out
    if outChars out + n ≤ limitEvent then (s.setOut p out).putLine p (some cls) false body
    else if evProtects cls then
      let t := (s.setOut p out)
      let t := t.setLines p { (t.lines p) with subs := [], lapsed := true }
      t.putLine p (some .alarm) false ("!LAPSED" ++ kvN "seq" seq)
    else s.setOut p out
  else s

/-! ### Event log and events (R8, R333, R462) -/

/-- Write an entry of the event log; the ring holds 16,384. -/
def Afw.addLog (a : Afw) (frame : BitVec 32) (kind pairs : String) : Afw :=
  let l := a.log ++ [⟨a.logNext, frame, kind, pairs⟩]
  { a with log := if l.length > 16384 then l.drop 1 else l, logNext := a.logNext + 1 }

/-- An entry goes into the ring in bank 5 (R183, R462). -/
def State.addLog (s : State) (kind pairs : String) : State :=
  { (s.wakeBank 5) with afw := s.afw.addLog s.seq.frame kind pairs, sram := s.sram.touchLog }

def evName : EvClass → String
  | .ready => "!READY" | .safe => "!SAFE" | .disp => "!DISP" | .alarm => "!ALARM" | .cal => "!CAL" | .rpt => "!RPT"
  | .log => "!LOG"

/-- Does AFW write a log entry for an event of a class (R462)? TMON writes none. -/
def evLogged : EvClass → Bool
  | .ready => true | .safe => false | .disp => true | .alarm => true | .cal => true | .rpt => false | .log => true

/-- The kind word of an entry. -/
def logKind (cls : EvClass) (kind : String) : String :=
  match cls with
  | .ready => "READY" | .disp => "DISP" | .alarm => "ALARM" | .cal => "CAL" | .safe => "SAFE" | .rpt => "RPT"
  | .log => kind

/-- What TMON sends in safe-hold: !READY, !SAFE, !ALARM and the aggregate !DISP line, whose kind is `*` (R310). -/
def safeSends (cls : EvClass) (kind : String) : Bool :=
  cls == .ready || cls == .safe || cls == .alarm || (cls == .disp && kind == "*")

/-- Form an event and enqueue it on every subscribed port (R8, R306); in safe-hold TMON forms it without an entry. -/
def State.event (s : State) (cls : EvClass) (kind pairs : String) : State :=
  if s.safe.on && !safeSends cls kind then s else
  let entry := evLogged cls && !s.safe.on
  let seq := if entry then s.afw.logNext else 0
  let t := if entry then s.addLog (logKind cls kind) pairs else s
  let body := if cls = .log then "!LOG" ++ kvN "seq" seq ++ kv "kind" kind ++ pairs else evName cls ++ pairs
  allPorts.foldl (fun (t : State) p => t.portEvent p cls seq body) t

/-- An entry of the kinds that have no event line of their own. -/
def State.logEvent (s : State) (kind pairs : String) : State := s.event .log kind pairs

/-! ### Responses (R298, R301, R307) -/

/-- The line that the interpreter answers: the current one, else an untagged line of Port A (log entry 14). -/
def State.curLine (s : State) : CurLine := s.interp.cur.getD ⟨.a, (s.lines .a).gen, "", ""⟩

/-- PORTA_DIV or PORTB_DIV as a register write; out of 25 to 64,000 it is ignored. The divisor is in force for the next
character: at once for the receiver, and for the transmitter when no character is being sent (R341, log entry 15). -/
def State.portDiv (s : State) (portB : Bool) (v : Word) : State :=
  if v.toNat < 25 ∨ 64000 < v.toNat then s
  else
    let u (x : Uart) : Uart := { x with div := v, divRx := v, divTx := if x.l.out.isEmpty then v else x.divTx }
    if portB then { s with portb := u s.portb } else { s with porta := u s.porta }

/-- The divisor nearest to a rate, and the rate of a divisor: CLK_SYS is 76.8 MHz (R339). -/
def divFor (baud : Nat) : Nat := (2 * 76800000 + baud) / (2 * baud)
def rateOf (div : Nat) : Nat := (2 * 76800000 + div) / (2 * div)

/-- The last line of a queue is the last one that its port sends under the old divisor. -/
def divAfter (v : Word) (out : List OutLine) : List OutLine :=
  match out.reverse with
  | [] => []
  | o :: r => ({ o with div := some v } :: r).reverse

/-- The settings of port q as the keys of a PORT line of port p give them, once its `+OK` is enqueued: on p itself that
line is still sent at the old rate (R302). -/
def State.applyPort (s : State) (p q : MPort) (a : PortArgs) : State :=
  let l := s.lines q
  let t := s.setLines q { l with gen := a.gen.getD l.gen, subs := a.sub.getD l.subs,
                                 lapsed := match a.sub with | some (_ :: _) => false | _ => l.lapsed }
  match a.baud with
  | none => t
  | some b =>
    if p = q then t.setOut q (divAfter (lo16 (divFor b)) (t.lines q).out) else t.portDiv (q == .b) (lo16 (divFor b))

/-- The final line of a long operation has been enqueued: the interpreter is idle (R303). -/
def State.endLong (s : State) (o : OutLine) : State :=
  if o.ends then { s with interp := { s.interp with long := none }, ports := { s.ports with sbBusy := false } } else s

/-- Enqueue a response line, with the settings that take effect then. -/
def State.putAnswer (s : State) (p : MPort) (o : OutLine) : State :=
  let t := (s.putLine p none o.mark o.text).endLong o
  match o.set with
  | none => t
  | some x => t.applyPort p x.1 x.2

/-- Enqueue the lines of a response on a port: as one block when all fit and none waits there, else they wait for room
(R307). -/
def State.putLines (s : State) (p : MPort) (os : List OutLine) : State :=
  let n := os.foldl (fun n o => n + s.lineChars p o.text) 0
  if (s.lines p).used + n ≤ limitResponse ∧ s.interp.lines.all (fun x => x.1 != p) then
    os.foldl (fun (t : State) o => t.putAnswer p o) s
  else { s with interp := { s.interp with lines := s.interp.lines ++ os.map (fun o => (p, o)) } }

/-- The response to a line: continuation lines, then the final line, which an action or settings may follow. -/
def State.putResponse (s : State) (c : CurLine) (mark : Bool) (bodies : List String) (fin : String)
    (set : Option (MPort × PortArgs) := none) : State :=
  s.putLines c.port (bodies.map (fun b => { cls := none, text := tagged c.tag b }) ++
    [{ cls := none, text := tagged c.tag fin, mark := mark, set := set }])

/-- Answer the current command and leave it. -/
def State.respond (s : State) (conts : List String) (fin : String) : State :=
  let c := s.curLine
  let t := s.putResponse c false (conts.map (":" ++ ·)) fin
  { t with interp := { t.interp with cur := none } }

def State.ok (s : State) (pairs : String) : State := s.respond [] ("+OK" ++ pairs)
def State.okWith (s : State) (conts : List String) (pairs : String) : State := s.respond conts ("+OK" ++ pairs)
def State.err (s : State) (code : String) : State := s.respond [] ("-ERR " ++ code)

/-- AFW finds its tables inconsistent: the line goes to the event log (R300). -/
def State.internal (s : State) : State := (s.logEvent "INTERNAL" (kv "line" s.curLine.text)).err "INTERNAL"

/-! ### Actions that wait for a `+OK` (R304, R336, R382) -/

def State.afterSend (s : State) (a : AfterSend) : State :=
  let s := { s with interp := { s.interp with wait := none } }
  match a with
  | .reset => s.sampledReset 2 false false
  | .modeSet b => s.modeRestart b
  | .standby => s.pwrCtl 2
  | .sleep => s.pwrCtl 3
  | .safeEnter => s.enterSafe 5

/-- Does the `+OK` of a waiting action still wait for room in its port's output queue? -/
def State.okWaits (s : State) : Bool := s.interp.lines.any (fun x => x.2.mark)

/-- Carry out a waiting action once its `+OK` has been enqueued and, where the action waits for that, sent. -/
def State.settle (s : State) : State :=
  match s.interp.wait with
  | none => s
  | some w => if s.okWaits || (w.sent && (s.lines w.port).out.any (·.mark)) then s else s.afterSend w.act

/-- The first waiting line that fits on its port, no earlier one of that port waiting: that line, and the others. -/
def State.nextFit (s : State) : List MPort → List (MPort × OutLine) → Option ((MPort × OutLine) × List (MPort × OutLine))
  | _, [] => none
  | held, x :: r =>
    if !held.contains x.1 && decide ((s.lines x.1).used + s.lineChars x.1 x.2.text ≤ limitResponse) then some (x, r)
    else (s.nextFit (x.1 :: held) r).map (fun y => (y.1, x :: y.2))

/-- The next line of a response that waited for room. -/
def State.pumpResponse (s : State) : State :=
  match s.nextFit [] s.interp.lines with
  | none => s
  | some (x, r) => (({ s with interp := { s.interp with lines := r } }).putAnswer x.1 x.2).settle

/-- RESPONSE_LINE_ENQUEUE (R298, R307). -/
def execResponseLineEnqueue (s : State) : Out := .next s.pumpResponse

/-! ### GNSS sentences (R362) -/

/-- The characters that the GT_TXD queue takes. -/
def State.gnssRoom (s : State) : Nat :=
  let q := s.queue timeTxq
  if q.en then 64 * (q.sizeM1.toNat + 1) else 0

/-- A whole sentence on the GT_TXD queue, with its answer, once the queue has room for it; until then the command waits
and holds the interpreter. -/
def State.sendGnss (s : State) (line : List Byte) : State :=
  if s.timep.tx.length + line.length ≤ s.gnssRoom then
    ({ s with timep := { s.timep with tx := s.timep.tx ++ line },
              interp := { s.interp with gnss := none } }).ok (kvN "len" (line.length - 6))
  else { s with interp := { s.interp with gnss := some line } }

/-- The sentence that waits, tried again. -/
def State.pumpGnss (s : State) : State :=
  match s.interp.gnss with
  | none => s
  | some line => s.sendGnss line

/-! ### Long operations (R303, R304) -/

/-- Is the interpreter busy? It is also busy from a wake until resumed service (R304). -/
def State.busy (s : State) : Bool := s.interp.long.isSome || s.pwr.resuming

/-- Answer `~BUSY` to a line of a port. -/
def State.sayBusy (s : State) (p : MPort) (line : String) : State :=
  let tag := if (s.lines p).gen then (tagOf line).getD "" else ""
  s.putLines p [{ cls := none, text := tagged tag "~BUSY" }]

/-- The current command becomes a long operation: the lines already waiting are answered and discarded. -/
def State.beginLong (s : State) (k : LongKind) (fin : Option String) : State :=
  let c := s.curLine
  let t := { s with interp := { s.interp with cur := none, long := some ⟨k, c, fin, false⟩ },
                    ports := { s.ports with sbBusy := true } }
  allPorts.foldl (fun (t : State) p =>
    let l := t.lines p
    let t := l.waiting.foldl (fun (t : State) w => t.sayBusy p w.1) t
    t.setLines p { (t.lines p) with waiting := [] }) t

/-- The final line of the long operation becomes known. -/
def State.finishLong (s : State) (k : LongKind) (line : String) : State :=
  match s.interp.long with
  | some o => if o.kind = k ∧ o.given = false then { s with interp := { s.interp with long := some { o with fin := some line } } } else s
  | none => s

def State.longKind (s : State) : Option LongKind := s.interp.long.map (·.kind)

/-- LONG_OPERATION_END (R304): the final line, once known, goes to its port; with the line enqueued the interpreter is idle
(R303). -/
def execLongOperationEnd (s : State) : Out :=
  match s.interp.long with
  | none => .next s
  | some o =>
    match o.fin with
    | none => .next s
    | some l =>
      let t := { s with interp := { s.interp with long := some { o with fin := none, given := true } } }
      .next (t.putLines o.cur.port [{ cls := none, text := tagged o.cur.tag l, ends := true }])

/-- `!ALARM kind=ECC` for a new uncorrectable error, after which AFW clears ECC_STAT.UE (R337, R367). -/
def State.eccAlarm (s : State) : State :=
  if s.ecc.ue then
    { (s.event .alarm "" (kv "kind" "ECC" ++ kvH "addr" 6 s.ecc.uaddr.toNat)) with ecc := { s.ecc with ue := false } }
  else s

/-- EVENT_ENQUEUE (R8): an event that AFW forms; the line of an alarm begins with its kind (R337). -/
def execEventEnqueue (cls : EvClass) (kind pairs : String) (s : State) : Out :=
  if s.afw.ready || s.safe.on then
    if cls = .alarm then .next (if kind = "ECC" then s.eccAlarm else s.event .alarm "" (kv "kind" kind ++ pairs))
    else .next (s.event cls kind pairs)
  else .next s

/-- ALERT_CLEAR (R343): no event line of the port is queued any more. -/
def execAlertClear (portB : Bool) (s : State) : Out :=
  if portB then
    (if (s.portb.l.out.any (fun o => o.cls.isSome)) then .next s
     else .next { s with portb := s.portb.setAlert false })
  else if s.porta.l.out.any (fun o => o.cls.isSome) then .next s
  else .next { s with porta := s.porta.setAlert false }

end Sys2Proof.Machine
end

