-- ==== Sys2Proof/Machine/Ports.lean ====
section
/-! DEFINITION. The ports: UART reception, line assembly and transmission, SPI frames of Port S, transfers of Port M
(15_ports, R286, R287, R292, R421, R422). -/

namespace Sys2Proof.Machine

open Sys2Proof

/-! ### Line assembly (R286, R287, R292, R294) -/

/-- The partial line as text. -/
def Lines.partText (l : Lines) : String := String.ofList l.partialRev.reverse

/-- A terminator ends the line; an empty line or one of spaces is ignored. -/
def Lines.endLine (l : Lines) (cr : Bool) : Lines :=
  { l with partialRev := [], overlong := false, badChar := false, lastCr := cr,
           done := if l.partialRev.all (· == ' ') ∧ l.overlong = false then l.done
                   else l.done ++ [(l.partText, l.overlong, l.badChar)] }

/-- A character accepted into the line; the 256th makes it too long. -/
def Lines.accept (l : Lines) (c : Char) (bad : Bool) : Lines × String :=
  if l.partialRev.length ≥ 255 then ({ l with overlong := true, lastCr := false }, "")
  else ({ l with partialRev := c :: l.partialRev, badChar := l.badChar || bad, lastCr := false }, String.singleton c)

/-- One received character: the new line state and what a typed port echoes. -/
def Lines.feed (l : Lines) (b : Byte) : Lines × String :=
  let n := b.toNat
  if n = 13 ∨ n = 10 then
    (if n = 10 ∧ l.lastCr = true then ({ l with lastCr := false }, "")
     else if l.midLine then ({ l with midLine := false, lastCr := n == 13 }, "")
     else (l.endLine (n == 13), "\r\n"))
  else if l.midLine ∨ l.overlong then ({ l with lastCr := false }, "")
  else if l.gen then l.accept (Char.ofNat n) (decide (n < 32 ∨ 126 < n))
  else if n = 8 ∨ n = 127 then
    (match l.partialRev with
     | [] => ({ l with lastCr := false }, "")
     | _ :: r => ({ l with partialRev := r, lastCr := false }, "\x08 \x08"))
  else if n = 9 then l.accept ' ' false
  else if 32 ≤ n ∧ n ≤ 126 then l.accept (Char.ofNat n) false
  else ({ l with lastCr := false }, "")

/-- Do the ports serve lines: from !READY on (R422), or by TMON's handler in safe-hold (R427, R429), and not in STANDBY or
SLEEP (R379)? -/
def State.served (s : State) : Bool :=
  (s.afw.ready || (s.safe.on && (s.safe.reported || !s.safe.beforeReady))) && !s.asleep

/-! ### UARTs (R339 to R343) -/

/-- A word for a port's receive queue. -/
def State.rxPush (s : State) (q : BitVec 5) (v : Word) : State := s.qpush q v

/-- The shipped AFW's core A0 takes the words of the receive queue that it named for a port. -/
def State.rxTake (s : State) (q own : BitVec 5) : Option Word × State :=
  if q = own ∧ (s.queue q).empty = false then
    let r := s.corePop .a0 q
    (some r.1, r.2)
  else (none, s)

/-- A character on Port A or B before the ports serve lines leaves the port mid-line (R421, R422). -/
def Lines.early (l : Lines) (b : Byte) : Lines := { l with midLine := !(b == 13 || b == 10) }

/-- A received character on a UART's registers: the new registers, and whether the character goes on (R340, R371). -/
def Uart.receive (u : Uart) (stopLow full : Bool) : Uart × Bool :=
  if !bit u.cfg 15 then (u, false)
  else if stopLow then ({ u with ferr := true, ferrc := satInc8 u.ferrc }, false)
  else if full then ({ u with rxOvr := true, ovrc := satInc8 u.ovrc }, false)
  else (u, true)

/-- The partial line is discarded (R340). -/
def Lines.clearPart (l : Lines) : Lines :=
  { l with partialRev := [], overlong := false, badChar := false, lastCr := false, midLine := false }

/-- What AFW does with a word that it takes from a port's receive queue: a character into the line, with its echo, or a
break marker. -/
def State.takeWord (s : State) (p : MPort) (v : Word) : State :=
  if bit v 15 then s.setLines p (s.lines p).clearPart
  else
    let f := (s.lines p).feed (loByte v)
    (s.setLines p f.1).echo p f.2

/-- A word on a UART's receive queue, which AFW takes when the queue is the one it named. -/
def State.uartWord (s : State) (p : MPort) (q : BitVec 5) (v : Word) : State :=
  let r := (s.rxPush q v).rxTake q (afwRxq p)
  match r.1 with
  | some w => r.2.takeWord p w
  | none => r.2

/-- A character on Port A or B, whose registers stand at u (R340, R286, R292). Before the ports serve lines the
character is discarded, and a framing error is counted all the same; in STANDBY and SLEEP it is lost (R391). -/
def State.uartChar (s : State) (p : MPort) (u : Uart) (put : State → Uart → State) (ch : Byte) (stopLow : Bool) : State :=
  if s.asleep then s
  else if !s.served then
    let v := if bit u.cfg 15 && stopLow then (u.receive true false).1 else u
    put s { v with l := if stopLow then v.l else v.l.early ch }
  else
    let r := u.receive stopLow (s.queue (rxq u.cfg)).full
    let t := put s r.1
    if r.2 then t.uartWord p (rxq u.cfg) (ch.setWidth 16) else t

def putA (s : State) (u : Uart) : State := { s with porta := u }
def putB (s : State) (u : Uart) : State := { s with portb := u }

/-- UART_CHARACTER_RX (R340, R286, R292, R359). -/
def execUartCharacterRx (p : UPort) (ch : Byte) (stopLow : Bool) (s : State) : Out :=
  match p with
  | .a => .next (s.uartChar .a s.porta putA ch stopLow)
  | .b => .next (s.uartChar .b s.portb putB ch stopLow)
  | .t =>
    if !bit s.timep.cfg 15 || s.asleep then .next s
    else if stopLow then .next { s with timep := { s.timep with ferr := true } }
    else if !s.served then .next s
    else if (s.queue (rxq s.timep.cfg)).full then .next { s with timep := { s.timep with rxOvr := true } }
    else .next ((s.rxPush (rxq s.timep.cfg) (ch.setWidth 16)).rxTake (rxq s.timep.cfg) timeRxq).2

/-- A break marker on a port's receive queue; before the ports serve lines it is discarded with the partial line. -/
def State.uartBreak (s : State) (p : MPort) (q : BitVec 5) : State :=
  if s.served then s.uartWord p q 0x8000 else s.setLines p (s.lines p).clearPart

/-- UART_BREAK (R340): the marker, BRK, and the partial line discarded. A port that is off discards its input: no marker,
and AFW keeps the partial line. Before the ports serve lines a break ends what would leave the port mid-line (R422). -/
def execUartBreak (p : UPort) (s : State) : Out :=
  if s.asleep then .next s else
  match p with
  | .a => .next (if bit s.porta.cfg 15 then ({ s with porta := { s.porta with brk := true } }).uartBreak .a (rxq s.porta.cfg)
      else if s.served then s else s.setLines .a s.porta.l.clearPart)
  | .b => .next (if bit s.portb.cfg 15 then ({ s with portb := { s.portb with brk := true } }).uartBreak .b (rxq s.portb.cfg)
      else if s.served then s else s.setLines .b s.portb.l.clearPart)
  | .t => .next (if bit s.timep.cfg 15 then
      let t := { s with timep := { s.timep with brk := true } }
      if s.served then ((t.rxPush (rxq s.timep.cfg) 0x8000).rxTake (rxq s.timep.cfg) timeRxq).2 else t
    else s)

/-- Send n characters of a port's output queue: what leaves and what stays. -/
def sendChars : Nat → List OutLine → List Byte × List OutLine
  | 0, out => ([], out)
  | _ + 1, [] => ([], [])
  | n + 1, o :: r =>
    let x := sendChars n (dropChar (o :: r))
    (charByte (o.text.toList.getD o.sent ' ') :: x.1, x.2)

/-- The divisor that a line leaves behind with its last character (R302). -/
def sentDiv (out : List OutLine) : Option Word :=
  match out with
  | o :: _ => if o.sent + 1 ≥ o.text.length then o.div else none
  | [] => none

/-- A divisor in force between two characters. -/
def State.divNow (s : State) (portB : Bool) (v : Word) : State :=
  if portB then { s with portb := { s.portb with div := v, divRx := v, divTx := v } }
  else { s with porta := { s.porta with div := v, divRx := v, divTx := v } }

/-- The end of a character that a UART sends: of AFW's lines when its transmit queue is the one that AFW named, else a
word of the queue; a queue that is off is empty (R341, R371). -/
def State.uartSent (s : State) (p : MPort) (portB : Bool) (cfg : Word) : State :=
  if !bit cfg 15 then s
  else if txq cfg = afwTxq p then
    (if (s.queue (txq cfg)).en then
      let d := sentDiv (s.lines p).out
      let t := s.setOut p (dropChar (s.lines p).out)
      (match d with | some v => t.divNow portB v | none => t).settle
    else s)
  else if (s.queue (txq cfg)).empty then s
  else (s.qpop (txq cfg)).2

/-- UART_CHARACTER_TX (R341): the last stop bit of a character; a new divisor is then in force. In STANDBY and SLEEP no port
sends (R445). -/
def execUartCharacterTx (p : UPort) (s : State) : Out :=
  if s.asleep then .next s else
  match p with
  | .a => .next (({ s with porta := { s.porta with divTx := s.porta.div } }).uartSent .a false s.porta.cfg)
  | .b => .next (({ s with portb := { s.portb with divTx := s.portb.div } }).uartSent .b true s.portb.cfg)
  | .t =>
    if !bit s.timep.cfg 15 then .next s
    else if txq s.timep.cfg = timeTxq then
      .next (if (s.queue timeTxq).en then ({ s with timep := { s.timep with tx := s.timep.tx.drop 1 } }).pumpGnss else s)
    else .next (if (s.queue (txq s.timep.cfg)).empty then s else (s.qpop (txq s.timep.cfg)).2)

/-- PORTA_DIV_WRITE (R341, R343). -/
def execPortaDivWrite (portB : Bool) (v : Word) (s : State) : Out := .next (s.portDiv portB v)

/-- UA_RDY_UPDATE (R342). -/
def execUaRdyUpdate (s : State) : Out :=
  let on := s.afw.ready && decide (s.porta.l.waiting.length < 4) && !s.busy && !s.safe.on
  .next { s with porta := { s.porta with cfg := (s.porta.cfg &&& 0xBFFF) ||| bitWord 14 on } }

/-! ### Lines into the input buffer (R287, R303) -/

/-- The tag under which a port answers a line itself. -/
def portTag (l : Lines) (line : String) : String := if l.gen then (tagOf line).getD "" else ""

/-- LINE_COMPLETE: the oldest ended line is answered `~BUSY`, answered OVERFLOW, or buffered. -/
def execLineComplete (p : MPort) (s : State) : Out :=
  let l := s.lines p
  match l.done with
  | [] => .next s
  | (line, long, bad) :: rest =>
    let t := s.setLines p { l with done := rest }
    if s.busy then .next (t.sayBusy p line)
    else if long || decide (4 ≤ l.waiting.length) then
      .next (t.putLines p [{ cls := none, text := tagged (portTag l line) "-ERR OVERFLOW" }])
    else .next (t.setLines p { l with done := rest, waiting := l.waiting ++ [(line, bad)] })

/-! ### Port S (R344 to R351) -/

/-- The status byte at the select (R348). -/
def PortS.status (p : PortS) : Byte :=
  let b (n : Nat) (v : Bool) : Nat := if v then 2 ^ n else 0
  BitVec.ofNat 8 (b 7 p.sbReady + b 6 p.sbBusy + b 5 (p.txavl != 0) + b 4 p.sbEvt + b 3 p.sbSafe + b 2 p.frag +
    b 1 p.ovr + b 0 p.seqBit)

/-- A 4-bit error count. -/
def satInc4 (c : BitVec 4) : BitVec 4 := if c = 15 then c else c + 1

/-- What a frame's bytes hold (R345): the characters of the line, whether a terminator stood, whether more followed. -/
structure FrameLine where
  chars : List Byte
  term : Bool
  extra : Bool
  deriving DecidableEq, Repr

def isTerm (b : Byte) : Bool := b == 13 || b == 10

def frameLine (bytes : List Byte) : FrameLine :=
  let bs := (bytes.take 4096).filter (fun b => b != 0 && b != 0xFF)
  let bs := if bs.head? == some 10 then bs.drop 1 else bs
  let cs := bs.takeWhile (fun b => !isTerm b)
  let rest := bs.drop cs.length
  let tail := match rest with
    | 13 :: 10 :: r => r
    | _ :: r => r
    | [] => []
  ⟨cs, rest != [], tail != []⟩

/-- KIND of a frame (R349). -/
def frameKind (len : Nat) (extraBits : BitVec 3) (f : FrameLine) : Nat :=
  if extraBits ≠ 0 then 1
  else if len > 4096 then (if f.term then 3 else 2)
  else if f.chars ≠ [] ∧ f.term = false then 2
  else 0

/-- The registers at the end of a frame. -/
def PortS.endFrame (p : PortS) (len kind : Nat) (f : FrameLine) : PortS :=
  let ovr := decide (4096 < len) && kind != 1
  { p with frag := kind == 1, ovr := ovr,
           seqBit := if kind = 0 ∨ kind = 3 then !p.seqBit else p.seqBit,
           fragc := if kind = 1 then satInc4 p.fragc else p.fragc,
           shortc := if kind = 2 then satInc4 p.shortc else p.shortc,
           ovrc := if 4096 < len then satInc4 p.ovrc else p.ovrc,
           xtrac := if f.extra then satInc4 p.xtrac else p.xtrac }

/-- The line of a frame in the line assembly of Port S. -/
def Lines.feedAll (l : Lines) (bs : List Byte) : Lines :=
  bs.foldl (fun l b => (l.feed b).1) { l with partialRev := [], overlong := false, badChar := false, lastCr := false }

/-- Pop n words of a queue; the low bytes. -/
def State.popBytes (s : State) (q : BitVec 5) : Nat → List Byte × State
  | 0 => ([], s)
  | n + 1 =>
    let r := s.qpop q
    let t := r.2.popBytes q n
    (loByte r.1.v :: t.1, t.2)

/-- Load framing is in force: with BOOTSEL high, from the TMON ROM boot step until !READY (R420, R421). -/
def State.loading (s : State) : Bool :=
  s.boot.bootsel && !s.afw.ready && !s.safe.on &&
    (s.boot.stage == .hostLoad || s.boot.stage == .released || s.boot.stage == .calibrated)

/-- The status byte of load framing (R420): BUSY is 0 while TMON waits for a frame, and 1 from the Go frame that it accepts
(log entry 48). -/
def Boot.loadStatus (b : Boot) : Byte :=
  let f (n : Nat) (v : Bool) : Nat := if v then 2 ^ n else 0
  BitVec.ofNat 8 (f 6 (b.stage != .hostLoad) + f 5 b.rej + f 2 b.frag + f 1 b.ovr + f 0 b.seqBit)

/-- What every frame in load framing does: the answer to the host, and FRAG and OVERRUN for the next status byte. -/
def State.loadFraming (s : State) (len : Nat) (frag : Bool) : State :=
  { s with ports := { s.ports with lastTx := s.boot.loadStatus :: List.replicate (len - 1) 0xFF },
           boot := { s.boot with frag := frag, ovr := decide (4096 < len) && !frag } }

/-- PORTS_FRAME (R344 to R351): a whole frame of full bytes and a number of further bits. In STANDBY and SLEEP SS_SDO stays
at high impedance and the frame is discarded (R391, R445). -/
def execPortsFrame (bytes : List Byte) (extraBits : BitVec 3) (s : State) : Out :=
  let p := s.ports
  if s.asleep then .next { s with ports := { p with lastTx := [] } }
  else if s.loading then .next (s.loadFraming bytes.length (extraBits != 0))
  else if !bit p.cfg 15 then .next { s with ports := { p with lastTx := 0 :: List.replicate (bytes.length - 1) 0xFF } }
  else if !s.served then
    .next { s with ports := { p with lastTx := (p.status &&& 0x7F) :: List.replicate (bytes.length - 1) 0xFF } }
  else
    let n := min p.txavl.toNat (min bytes.length 4096 - 1)
    let q := txq p.cfg
    let r : List Byte × State :=
      if q = afwTxq .s then
        (if (s.queue q).en then
          let x := sendChars n p.l.out
          (x.1, s.setOut .s x.2)
        else ([], s))
      else
        let n := if (s.queue q).en then min n (s.queue q).depth else 0
        let x := s.popBytes q n
        (x.1, { x.2 with ports := { p with txavl := p.txavl - BitVec.ofNat 16 n } })
    let t := r.2
    let f := frameLine bytes
    let kind := frameKind bytes.length extraBits f
    let tx := p.status :: r.1 ++ List.replicate (bytes.length - 1 - r.1.length) 0xFF
    let t := { t with ports := { (t.ports.endFrame bytes.length kind f) with lastTx := tx } }
    let rq := rxq p.cfg
    let mine := rq == afwRxq .s && (s.queue rq).en
    let t := if mine then ((t.rxPush rq (0x8000 ||| place kind 13)).rxTake rq rq).2
      else (f.chars.foldl (fun (t : State) b => t.rxPush rq (b.setWidth 16)) t).rxPush rq (0x8000 ||| place kind 13)
    let t := if mine ∧ (kind = 0 ∨ kind = 3) ∧ f.term = true then
        t.setLines .s ((t.lines .s).feedAll (f.chars ++ [13]))
      else t
    .next t.settle

/-- PORTS_TXADD as a register write (R346, R351). -/
def State.portsTxadd (s : State) (v : Word) : State :=
  if s.afw.ready then { s with ports := s.ports.refresh (v.toNat : Int) }
  else { s with ports := { s.ports with txavl := BitVec.ofNat 16 (min 65535 (s.ports.txavl.toNat + v.toNat)) } }

/-- PORTS_TXADD_WRITE. -/
def execPortsTxaddWrite (v : Word) (s : State) : Out := .next (s.portsTxadd v)

/-! ### Port M (R353 to R357) -/

/-- Does a buffer of an application core's transfer reach outside the ledger SRAM below the key region? -/
def mRangeBad (a : Addr) (len : BitVec 12) : Bool := decide (keyBase < a.toNat + mWords len.toNat)

/-- A command latched from PORTM_CMD and the other registers (R354). -/
def PortM.latch (p : PortM) (v : Word) : MCmd :=
  { hold := bit v 14, sel := (v >>> 12).setWidth 2, len := v.setWidth 12, cfg := p.cfg, dly := p.dly, gap := p.gap,
    tx := BitVec.ofNat 24 (p.txal.toNat + 65536 * field p.txah 7 0), txOff := bit p.txah 15,
    rx := BitVec.ofNat 24 (p.rxal.toNat + 65536 * field p.rxah 7 0), rxOff := bit p.rxah 15 }

/-- A transfer on another select ends a held one (R355). -/
def PortM.start (p : PortM) (m : MCmd) : PortM :=
  { p with run := some m, held := if p.held = some m.sel then p.held else none, lost := [], early := [] }

/-- A write of PORTM_CMD (R354 to R356). -/
def State.portmCmd (s : State) (c : CoreId) (v : Word) : State :=
  let p := s.portm
  if bit v 15 then
    let m := p.latch v
    let bad := decide (m.len = 0) || p.pend.isSome ||
      (!c.isT && ((!m.txOff && mRangeBad m.tx m.len) || (!m.rxOff && mRangeBad m.rx m.len)))
    if bad then { s with portm := { p with err := true } }
    else if p.run.isSome then { s with portm := { p with pend := some m } }
    else { s with portm := p.start m }
  else if bit v 14 then s
  else { s with portm := { p with held := none } }

/-- PORTM_TRANSFER_START: a write of PORTM_CMD with GO = 1. -/
def execPortmTransferStart (c : CoreId) (v : Word) (s : State) : Out := .next (s.portmCmd c (v ||| 0x8000))

/-- PORTM_SELECT_RELEASE: a write with GO = 0 while a select is held. -/
def execPortmSelectRelease (v : Word) (s : State) : Out := .next (s.portmCmd .a0 (v &&& 0x7FFF))

/-- The unused low bits of the last input word are written 0 (R354). -/
def maskInput (len : Nat) (ws : List Word) : List Word :=
  (List.range (mWords len)).map (fun i =>
    let used := min 16 (len - 16 * i)
    ws.getD i 0 &&& (((0xFFFF : Word) >>> (16 - used)) <<< (16 - used)))

/-- The input words of a transfer under which banks powered down: those of a lost bank went with it (R389). -/
def State.storeKept (s : State) (lost : List Nat) (a : Nat) (ws : List Word) : State :=
  (ws.zipIdx).foldl (fun (t : State) w => if lost.contains (bankOf (a + w.2)) then t else t.wr (a + w.2) w.1) s

/-- PORTM_TRANSFER_END (R354, R355): the bits that came in are stored, the bits that went out are those of the output
buffer, and a pending command starts. The transfer's own accesses do not wait for a bank that drains behind it (R389). -/
def execPortmTransferEnd (inp : List Word) (s : State) : Out :=
  match s.portm.run with
  | none => .next s
  | some m =>
    let n := m.len.toNat
    let whole := s.portm.lost.isEmpty
    let s1 := { s with pwr := { s.pwr with draining := [] } }
    let r := if m.txOff then (List.replicate (mWords n) (0 : Word), s1)
      else if whole then s1.dmaRead m.tx.toNat (mWords n) else (s1.portm.early, s1)
    let t := if m.rxOff then r.2
      else if whole then r.2.wrN m.rx.toNat (maskInput n inp) else r.2.storeKept s.portm.lost m.rx.toNat (maskInput n inp)
    let t := { t with pwr := { t.pwr with draining := s.pwr.draining } }
    let p := { t.portm with run := none, pend := none, lastOut := maskInput n r.1, lost := [], early := [],
                            held := if m.hold then some m.sel else none }
    match s.portm.pend with
    | none => .next { t with portm := p }
    | some q => .next { t with portm := p.start q }

end Sys2Proof.Machine
end

