-- ==== Sys2Proof/Machine/Boot.lean ====
section
/-! DEFINITION. The boot: Belhild containers, image choice and verification, host-assisted load, the power-up
calibration run, !READY, and the lines of safe-hold entry (R279 to R284, R403, R418 to R430). -/

namespace Sys2Proof.Machine

open Sys2Proof

/-! ### Belhild containers (R279) -/

/-- The container's bytes: each word with its low byte first. -/
def flashBytes (ws : List Word) : List Byte := ws.flatMap (fun w => [loByte w, hiByte w])

/-- Words of bytes with the low byte first. -/
def flashWords : List Byte → List Word
  | a :: b :: r => (b.setWidth 16 <<< 8 ||| a.setWidth 16) :: flashWords r
  | _ => []

/-- A segment table entry. -/
structure Segment where
  kind : Nat
  core : Nat
  addr : Nat
  words : Nat
  deriving DecidableEq, Repr

def hw (ws : List Word) (i : Nat) : Word := ws.getD i 0

def imgLength (ws : List Word) : Nat := pair32 (hw ws 2) (hw ws 3)
def imgSvn (ws : List Word) : Nat := field (hw ws 4) 5 0
def imgCores (ws : List Word) : BitVec 6 := BitVec.ofNat 6 (field (hw ws 5) 7 2)
def imgVersion (ws : List Word) : Nat := pair32 (hw ws 6) (hw ws 7)
def imgNseg (ws : List Word) : Nat := (hw ws 8).toNat
def imgWdTicks (ws : List Word) : Word := hw ws 9
def imgPubKey (ws : List Word) : List Byte := flashBytes ((ws.drop 16).take 32)

/-- The header's field checks of R281: fixed fields, mode, CORES and SVN. -/
def State.headerValid (s : State) (ws : List Word) : Bool :=
  hw ws 0 == 0xB311 && hw ws 1 == 0x1000 && imgLength ws % 2 == 0 && decide (imgLength ws ≤ 393216) &&
    decide (2 * (64 + 4 * imgNseg ws + 32) ≤ imgLength ws) &&
    field (hw ws 4) 15 6 == 0 && decide (imgSvn ws ≤ 32) && field (hw ws 5) 15 8 == 0 &&
    decide (1 ≤ imgNseg ws) && decide (imgNseg ws ≤ 32) && decide (96 ≤ (imgWdTicks ws).toNat) &&
    decide ((imgWdTicks ws).toNat ≤ 38400) &&
    (List.range 6).all (fun i => hw ws (10 + i) == 0) && (List.range 16).all (fun i => hw ws (48 + i) == 0) &&
    (if s.isRelay then bit (hw ws 5) 1 else bit (hw ws 5) 0) && imgCores ws != 0 && decide (s.otp.svn ≤ imgSvn ws)

def segAt (ws : List Word) (i : Nat) : Segment :=
  let w (k : Nat) : Word := hw ws (64 + 4 * i + k)
  ⟨field (w 0) 15 12, field (w 0) 11 8, field (w 0) 7 0 * 65536 + (w 1).toNat, pair32 (w 2) (w 3)⟩

def segments (ws : List Word) : List Segment := (List.range (imgNseg ws)).map (segAt ws)

/-- A segment lies in its memory: 16 Kwords of program RAM, the 4,096 words of local RAM, the ledger SRAM below the
key region. -/
def Segment.ok (g : Segment) : Bool :=
  match g.kind with
  | 0 => decide (g.core ≤ 5) && decide (g.addr + g.words ≤ 0x4000)
  | 1 => decide (g.core ≤ 5) && decide (g.addr + g.words ≤ 0x1000)
  | 2 => g.core == 0 && decide (g.addr + g.words ≤ keyBase)
  | _ => false

def Segment.overlaps (g h : Segment) : Bool :=
  g.kind == h.kind && g.core == h.core && decide (g.addr < h.addr + h.words) && decide (h.addr < g.addr + g.words)

/-- Each segment with its data, in table order without gaps. -/
def segData : List Segment → List Word → List (Segment × List Word)
  | [], _ => []
  | g :: r, d => (g, d.take g.words) :: segData r (d.drop g.words)

def imgData (ws : List Word) : List (Segment × List Word) :=
  segData (segments ws) (ws.drop (64 + 4 * imgNseg ws))

def noOverlap : List Segment → Bool
  | [] => true
  | g :: r => !r.any g.overlaps && noOverlap r

/-- R281: is the container accepted? -/
def State.imageOk (s : State) (ws : List Word) : Bool :=
  let gs := segments ws
  let total := 64 + 4 * imgNseg ws + (gs.map (·.words)).foldl (· + ·) 0 + 32
  let bytes := flashBytes ws
  s.headerValid ws && imgLength ws == 2 * total && ws.length == total &&
    gs.all Segment.ok && noOverlap gs &&
    (imgData ws).all (fun d => d.1.kind != 0 || d.2.all (fun w => field w 15 14 == 0)) &&
    (match s.otp.keyHash with | some h => sha256 (imgPubKey ws) == h | none => true) &&
    ecdsaVerify (imgPubKey ws) (sha256 (bytes.take (bytes.length - 64))) (bytes.drop (bytes.length - 64))

/-! ### Loading (R281, R284) -/

def Memory.fill (m : Memory) : Nat → List Word → Memory
  | _, [] => m
  | a, w :: r => (m.set0 a w).fill (a + 1) r

def coreNo (n : Nat) : CoreId := CoreId.apps.getD n .a0

/-- Load one segment. -/
def State.loadSegment (s : State) (d : Segment × List Word) : State :=
  match d.1.kind with
  | 0 => s.modCore (coreNo d.1.core) (fun k => { k with pram := k.pram.fill d.1.addr d.2, pramBad := [], pramSingle := [] })
  | 1 => s.modCore (coreNo d.1.core) (fun k => { k with lram := k.lram.fill d.1.addr d.2, lramBad := [], lramSingle := [] })
  | _ => s.wrN d.1.addr d.2

/-- Clear every program RAM, every local RAM and every ledger SRAM word that a refused image wrote. -/
def State.clearLoaded (s : State) (ws : List Word) : State :=
  let t := s.modCores CoreId.apps (fun k => { k with pram := [], pramBad := [], pramSingle := [], lram := [], lramBad := [], lramSingle := [] })
  ((imgData ws).filter (fun d => d.1.kind == 2 && d.1.ok)).foldl
    (fun (t : State) d => t.wrN d.1.addr (d.2.map (fun _ => 0))) t

/-- An accepted image: loaded, its cores released and the watchdog started (R276, R284). -/
def State.acceptImage (s : State) (slot : BitVec 4) (ws : List Word) : State :=
  let t := (imgData ws).foldl (fun (t : State) d => t.loadSegment d) s
  ({ t with
    img := { valid := true, slot := slot, version := BitVec.ofNat 32 (imgVersion ws), svn := imgSvn ws,
             cores := imgCores ws, keyHash := sha256 (imgPubKey ws) },
    sys := { t.sys with wdTicks := imgWdTicks ws },
    boot := { t.boot with stage := .released } }).releaseCores (imgCores ws)

/-- The slot to try next (R280): valid header, higher SVN, then higher VERSION, then slot 0. -/
def State.bootSlot (s : State) (h0 h1 : List Word) : Option Bool :=
  let ok0 := s.headerValid h0 && !s.boot.tried0
  let ok1 := s.headerValid h1 && !s.boot.tried1
  if ok0 && ok1 then
    some (decide (imgSvn h0 < imgSvn h1) || (imgSvn h0 == imgSvn h1 && decide (imgVersion h0 < imgVersion h1)))
  else if ok0 then some false
  else if ok1 then some true
  else none

/-- A transfer to the boot flash, held, with the words that it places on SM_SDO: none for data. -/
def PortM.flashCmd (p : PortM) (len : Nat) (out : Bool) : MCmd :=
  { hold := true, sel := 0, len := BitVec.ofNat 12 len, cfg := p.cfg, dly := p.dly, gap := p.gap, tx := 0, txOff := !out,
    rx := 0, rxOff := out }

/-- The chain that reads some bytes of the flash from a byte address on (R357): a 40-bit command transfer, read command 0x0B,
the address and 8 dummy clocks, and held transfers of 4,080 bits; each with the words on SM_SDO. -/
def PortM.chain (p : PortM) (addr bytes : Nat) : List (MCmd × List Word) :=
  (p.flashCmd 40 true, [BitVec.ofNat 16 (0x0B00 + addr / 65536 % 256), BitVec.ofNat 16 addr, 0]) ::
    (List.range ((8 * bytes + 4079) / 4080)).map (fun i =>
      let n := min 4080 (8 * bytes - 4080 * i)
      (p.flashCmd n false, List.replicate (mWords n) 0))

/-- A transfer of a chain from its start to its end: the select stays asserted (R355). -/
def PortM.through (p : PortM) (x : MCmd × List Word) : PortM :=
  { (p.start x.1) with run := none, lastOut := x.2, held := some x.1.sel }

/-- A chain, whose select is released at its end. -/
def PortM.flashChain (p : PortM) (x : Nat × Nat) : PortM := { ((p.chain x.1 x.2).foldl PortM.through p) with held := none }

/-- TMON reads spans of the boot flash, each by byte address and length (R280, R357): DIV, MODE and LATE 0, LEAD and TRAIL 1,
GAP 0. The settings stay so (DESIGN CHOICE, log entry 71). -/
def State.flashRead (s : State) (spans : List (Nat × Nat)) : State :=
  { s with portm := spans.foldl PortM.flashChain { s.portm with cfg := 0, dly := 0x0101, gap := 0 } }

/-- The first byte of an image slot in the flash (R280). -/
def slotByte (slot1 : Bool) : Nat := if slot1 then 0x080000 else 0

/-- The headers of both slots (R279, R280). -/
def headerSpans : List (Nat × Nat) := [(slotByte false, 128), (slotByte true, 128)]

/-- No slot yields an accepted image (R284): safe-hold with cause 0x6. -/
def State.noImage (s : State) : State := ({ s with boot := { s.boot with stage := .up } }).enterSafe 6

/-- IMAGE_ACCEPT (R280, R281, R284): the headers of both slots and the container of the slot tried, as read from the
flash. A restart without image load releases the cores of the image it kept (R385). -/
def execImageAccept (h0 h1 ws : List Word) (s : State) : Out :=
  if s.boot.stage = .image ∧ s.safe.on = false then
    if s.boot.noLoad then
      .next (({ s with boot := { s.boot with stage := .released, noLoad := false },
                       pwr := { s.pwr with resume := true } }).releaseCores s.img.cores)
    else match s.bootSlot h0 h1 with
      | none => .next (s.flashRead headerSpans).noImage
      | some slot1 =>
        let s := s.flashRead (headerSpans ++ [(slotByte slot1, imgLength ws)])
        if s.imageOk ws then .next (s.acceptImage (if slot1 then 1 else 0) ws)
        else
          let t := s.clearLoaded ws
          let t := { t with boot := { t.boot with tried0 := t.boot.tried0 || !slot1, tried1 := t.boot.tried1 || slot1 } }
          .next (if (t.bootSlot h0 h1).isNone then t.noImage else t)
  else .next s

/-! ### Host-assisted load (R420) -/

/-- LOAD_FRAME. After an accepted image a frame is answered with BUSY and refused. -/
def execLoadFrame (bytes : List Byte) (frag : Bool) (s : State) : Out :=
  if s.boot.stage = .hostLoad ∧ s.safe.on = false then
    let t := s.loadFraming bytes.length frag
    let off := beNat ((bytes.drop 1).take 3)
    let d := bytes.drop 4
    let expect := if s.boot.rej then 0 else s.boot.buf.length
    if !frag && decide (bytes.length ≤ 4096) && bytes.getD 0 0 == 0x4C && off % 2 == 0 && (off == 0 || off == expect) &&
       decide (2 ≤ d.length) && d.length % 2 == 0 then
      .next { t with boot := { t.boot with buf := if off = 0 then d else t.boot.buf ++ d,
                                           rej := t.boot.rej && off != 0, seqBit := !t.boot.seqBit } }
    else .next t
  else .next (if s.loading then s.loadFraming bytes.length frag else s)

/-- GO_FRAME: R281 on what has been loaded. -/
def execGoFrame (bytes : List Byte) (frag : Bool) (s : State) : Out :=
  if s.boot.stage = .hostLoad ∧ s.safe.on = false then
    let t := s.loadFraming bytes.length frag
    if !frag && bytes.length == 4 && bytes.getD 0 0 == 0x47 then
      let t := { t with boot := { t.boot with seqBit := !t.boot.seqBit } }
      let ws := flashWords t.boot.buf
      if beNat (bytes.drop 1) == imgLength ws && t.boot.buf.length == imgLength ws && t.imageOk ws then
        .next (({ t with boot := { t.boot with buf := [] } }).acceptImage 0 ws)
      else .next ({ t.clearLoaded ws with boot := { t.boot with rej := true, buf := [] } })
    else .next t
  else .next (if s.loading then s.loadFraming bytes.length frag else s)

/-! ### Power-up calibration (R403) -/

/-- POWER_UP_CALIBRATION: all parts back to back, applied at once; CAL_TREF takes the temperature of the run (R404, R409). -/
def execPowerUpCalibration (m : CalMeas) (s : State) : Out :=
  if s.boot.stage = .released ∧ s.safe.on = false then
    let t := s.measureParts allParts s.now true m
    .next { t with cal := { t.cal with tref := m.temp }.applyNow, boot := { t.boot with stage := .calibrated } }
  else .next s

/-! ### !READY (R337, R338, R411, R421 to R423) -/

/-- A port's CFG register as the firmware writes it: on, with its two queues. -/
def portCfg (rx tx : BitVec 5) : Word := 0x8000 ||| (tx.setWidth 16 <<< 5) ||| rx.setWidth 16

/-- The ports as every firmware start sets them (R338). -/
def State.portDefaults (s : State) : State :=
  let fresh (gen mid : Bool) : Lines := { gen := gen, midLine := mid }
  let cfg (p : MPort) : Word := portCfg (afwRxq p) (afwTxq p)
  let t := s.portQueues
  { t with
    porta := { s.porta with cfg := cfg .a, div := 0x029B, divRx := 0x029B, divTx := 0x029B,
                            l := fresh false s.porta.l.midLine },
    portb := { s.portb with cfg := cfg .b, div := 0x029B, divRx := 0x029B, divTx := 0x029B,
                            l := fresh true s.portb.l.midLine },
    ports := { s.ports with cfg := cfg .s, sbReady := true, txavl := 0, l := fresh true false },
    timep := { s.timep with cfg := portCfg timeRxq timeTxq } }

/-- The levels at which the port outputs are held from reset until the firmware configures them (R338). `none` is
high impedance. -/
structure PortPins where
  uaTxd : Bool := true
  ubTxd : Bool := true
  gtTxd : Bool := true
  uaRdy : Bool := false
  ssAttn : Bool := false
  alertN : Bool := true
  ssSdo : Option Bool := none
  smSck : Bool := false
  smSdo : Bool := false
  smSel : List Bool := [true, true, true, true]
  deriving DecidableEq, Repr

/-- The port outputs: held until the firmware configures them, and in STANDBY and SLEEP (R445); SS_ATTN is high in load
framing, where BUSY is 0 (R420). Then, between characters, frames and the bits of transfers, the UARTs idle high (R339),
SS_SDO is high impedance while no frame selects Port S (R344), SM_SCK is at its idle level (R353), the select of a
transfer or a held one is low (R355), and the other pins follow the ports' registers (R342, R343, R350). -/
def State.portPins (s : State) : PortPins :=
  let sel (i : Nat) : Bool :=
    !(s.portm.held == some (BitVec.ofNat 2 i) || s.portm.run.map (·.sel) == some (BitVec.ofNat 2 i))
  if s.pwr.state = .standby ∨ s.pwr.state = .sleep then {}
  else if !(s.afw.ready || s.safe.on) then { ssAttn := s.boot.stage == .hostLoad }
  else { uaRdy := bit s.porta.cfg 14, ssAttn := bit s.ports.cfg 14,
         alertN := !(bit s.porta.cfg 13 || bit s.portb.cfg 13),
         smSck := bit s.portm.cfg 15, smSel := (List.range 4).map sel }

/-- The pairs of !READY. -/
def State.readyPairs (s : State) (image : Bool) : String :=
  kvN "boot" s.aon.boot.toNat ++ kv "mode" (if s.isRelay then "RELAY" else "COORD") ++
    kvH "fw" 8 (if image then s.img.version.toNat else 0) ++ kvH "tmon" 4 s.tmonVer.toNat ++
    kvH "cause" 1 s.aon.resetCause.toNat

/-- AFW's set-up of the queues, the lanes and the transmitter (R157, R167, 20_register_map). -/
def State.afwSetup (s : State) : State :=
  let t := s.afwQueues
  { t with
    lane := { t.lane with cfg := (List.range 128).map (fun i => (i, (4 : Word))), bufq := 3, filt := 0,
                          own := s.ownAddr },
    tx := { t.tx with cfg := (t.tx.cfg &&& 0xFFE0) ||| 31, cfgWritten := true } }

/-- The relay's window centre of its mode block is applied at the restart (R203). -/
def State.relayCentre (s : State) : State :=
  match s.relay with
  | some r => { s with rxw := { s.rxw with cen0 := BitVec.ofNat 24 r.w0cen } }
  | none => s

/-- AFW ready: cleared tables, the relay in SEARCH (R211), CFGV to be incremented (R107). -/
def State.afwStart (s : State) : State :=
  let t := ({ s with sram := s.sram.clear }).portDefaults.afwSetup.relayCentre
  { t with
    afw := { ({} : Afw) with ready := true },
    interp := { lastPort := .s },
    seq := { t.seq with rstate := if s.isRelay then 1 else 0, miss := 0, hold := 0, orphan := false },
    boot := { t.boot with stage := .up } }

/-- READY (R422): !READY on Ports A, B and S. -/
def execReady (s : State) : Out :=
  if s.boot.stage = .calibrated ∧ s.safe.on = false then
    let t := s.afwStart
    .next (t.event .ready "" (t.readyPairs true))
  else .next s

/-! ### Safe-hold entry lines (R76, R424, R429) -/

/-- The last line of an output queue of which AFW had pushed only some characters: those not yet sent go, and CR LF ends
what has gone out (R76). -/
def cutLine (out : List OutLine) : List OutLine :=
  match out.reverse with
  | [] => []
  | o :: r =>
    if o.sent = 0 then r.reverse
    else ({ o with text := String.ofList (o.text.toList.take o.sent) ++ "\r\n" } :: r).reverse

/-- Partial lines are discarded on the ports named. -/
def State.cutLines (s : State) (cut : List MPort) : State :=
  (allPorts.filter cut.contains).foldl (fun (t : State) p => t.setOut p (cutLine (t.lines p).out)) s

/-- SAFE_HOLD_REPORT: before READY the port settings and !READY; else partial lines go and the aggregate line follows;
then !SAFE. `cut` names the ports whose last line AFW had pushed in part when its cores were held. -/
def execSafeHoldReport (cut : List MPort) (s : State) : Out :=
  if s.safe.on ∧ s.safe.reported = false then
    let safeText (t : State) : String :=
      kvH "cause" 1 t.safe.cause.toNat ++ kvN "frame" t.safe.frame.toNat ++ kvN "boot" t.aon.boot.toNat
    let t := if s.safe.beforeReady then
        (let u := s.portDefaults
         u.event .ready "" (u.readyPairs (u.img.valid && u.safe.cause != 6)))
      else (s.cutLines cut).event .disp "*" (kv "ticket" "*" ++ kv "disp" "ABORTED" ++ kvN "boot" s.aon.boot.toNat)
    let t := t.event .safe "" (safeText t)
    .next { t with safe := { t.safe with reported := true } }
  else .next s

/-! ### Alarms in safe-hold (R133, R426) -/

/-- SAFE_ALARM_RECEIVED: the report as lane 0 stored it, opened with the sender's key. -/
def execSafeAlarmReceived (b : List Byte) (s : State) : Out :=
  let h := Header.ofBytes b
  let u := h.src.toNat
  let key := s.keyBytes u
  if s.safe.on && s.seq.slot == 1 && headerOk 2 b && h.type == 3 && !h.key && h.frm == lo16 s.frm && fcrcOk b && u != 0 && u != 0xFFFF &&
     b.length == h.len + 16 && decide (17 ≤ h.len) && keyPresent key then
    let nonce := nonceBytes 3 s.district h.src h.dst s.frm 1 0 0 0
    match ccmOpenBytes key nonce (b.take 8) ((b.drop 10).take h.len) ((b.drop (10 + h.len)).take 4) with
    | none => .next s
    | some p =>
      if (p.getD 0 0).toNat / 16 ≠ 1 then .next s
      else
        let rseq := p.getD 1 0
        let seen := s.afw.alarms.filter (fun r => decide (s.frm ≤ r.frame + 32))
        let rep := seen.any (fun r => r.unit == h.src && r.rseq == rseq)
        let t := { s with afw := { s.afw with alarms := seen ++ [⟨h.src, rseq, s.frm, 0, true⟩] } }
        if rep then .next t
        else .next (t.event .alarm "" (kv "kind" "SAFEALARM" ++ kvH "unit" 4 u ++ kvN "frame" s.frm))
  else .next s

end Sys2Proof.Machine
end

