-- ==== Sys2Proof/Machine/Rx.lean ====
section
/-! DEFINITION. The lanes: acceptance windows, the choice of branch, the header check and filter, the buffer and the
descriptor (R7, R27 to R30, R90, R97, R150 to R157), and the receiver's register values. -/

namespace Sys2Proof.Machine

open Sys2Proof

/-! ### Acceptance (R151) -/

/-- Start of ack sub-slot k for a class, in Ticks (R28). -/
def subStart (cls k : Nat) : Nat :=
  if cls = 0 then 476 + 164 * k else if cls = 1 then 460 + 84 * k else 780 + 44 * k

def subCount (cls : Nat) : Nat := if cls = 0 then 4 else 8

/-- Start of hop window h (R26). -/
def hopStart (h : Nat) : Nat := if h = 0 then 16 else if h = 1 then 384 else 752

/-- Does the first preamble symbol, in 1/16 Tick, lie within n Ticks of a nominal start? -/
def within (first : Int) (start n : Nat) : Bool :=
  decide (((start : Int) - (n : Int)) * 16 ≤ first) && decide (first ≤ ((start : Int) + (n : Int)) * 16)

/-- Symbol length of a lane WIDTH in 1/16 Tick (R82). -/
def symSixteenths (width : Nat) : Nat := if width = 0 then 32 else if width = 1 then 16 else 8

/-- Start of the first preamble symbol: the sync end less 56 symbols (R151). -/
def rxStart (p : RxPacket) (width : Nat) : Int := (p.syncEnd : Int) - 56 * (symSixteenths width : Int)

/-- The acceptance windows that a slot's role gives any lane (R151), with the SUB field: reports, immediate acks, and in a
P slot the bundle that this machine does not send. -/
def slotAcceptance (w : SlotWord) (role frame : Nat) (first : Int) : Option (Bool × Nat) :=
  if role = roleU then (if within first 16 4 then some (false, 0) else none)
  else if role = roleD then
    ((List.range (subCount w.cls)).find? (fun k => within first (subStart w.cls k) 1)).map (fun k => (true, k))
  else if role = roleP then
    (if pSide w frame = 1 then (if within first 572 2 then some (false, 1) else none)
     else if pSide w frame = 2 then (if within first 16 2 then some (false, 0) else none)
     else none)
  else none

/-- What the lane does with a packet in this slot (R18, R133, R151, R212): ack mode or packet mode, with its SUB field, or
nothing. -/
def State.acceptance (s : State) (lane : Nat) (m : LaneMap) (first : Int) : Option (Bool × Nat) :=
  let n := s.seq.slot.toNat
  let w := planSlot (s.seq.cur.getD []) n
  let role := s.curRole
  if s.safe.on then (if lane = 0 ∧ n = 1 ∧ within first 16 2 then some (false, 0) else none)
  else match s.relay with
  | some r =>
    if lane ≥ 32 ∨ m.win then none
    else if s.searching then (if lane = 0 then some (false, r.depth - 1) else none)
    else if s.ownSafe ∧ lane = 1 ∧ n = 1 then (if within first 16 2 then some (false, 0) else none)
    else if role = roleB ∨ role = roleK then
      (if within first (hopStart (r.depth - 1)) 2 then some (false, r.depth - 1) else none)
    else slotAcceptance w role s.frm first
  | none => slotAcceptance w role s.frm first

/-! ### Branch choice (R152): margins in 0.5 dB -/

/-- Sync on a branch: at most 2 of the 24 symbols differ from the district's sync word (R87). -/
def synced (district : BitVec 12) (x : RxBranch) : Bool := decide (syncErrors district x.sync ≤ 2)

/-- The SNR at 1 % packet error rate, in 0.5 dB: 10 dB uncoded, 7 dB coded (R153). -/
def snrNeed (fec : Bool) : Int := if fec then 14 else 20

/-- The margin: the SNR over the sync word less what the packet needs, in 0.5 dB steps, saturating at −64 and +63.5 dB
(R153). -/
def marginOf (fec : Bool) (x : RxBranch) : Int := max (-128) (min 127 (x.snr - snrNeed fec))

/-- The quality that the choice compares: 6 dB less after a clip event in the preamble or sync word. -/
def branchQuality (district : BitVec 12) (fec : Bool) (x : RxBranch) : Option Int :=
  if synced district x then some (if x.clipSync then marginOf fec x - 12 else marginOf fec x) else none

/-- The branch a lane continues on: true = B; none when the forced branch, or both, found no sync. -/
def chooseBranch (district : BitVec 12) (antsel : Nat) (lastB fec : Bool) (p : RxPacket) : Option Bool :=
  if antsel = 1 then (if synced district p.a then some false else none)
  else if antsel = 2 then (if synced district p.b then some true else none)
  else match branchQuality district fec p.a, branchQuality district fec p.b with
    | none, none => none
    | some _, none => some false
    | none, some _ => some true
    | some a, some b => if a > b then some false else if b > a then some true else some lastB

/-- The branch that a lane continues on. -/
def branchOf (p : RxPacket) (antB : Bool) : RxBranch := if antB then p.b else p.a

/-! ### Descriptor (R155) and buffer (R156) -/

def clampByte (v : Int) : Byte := BitVec.ofInt 8 (max (-128) (min 127 v))

/-- A number of n bits placed at bit lo. -/
def placeB (b : Byte) (lo : Nat) : Word := (b.setWidth 16) <<< lo

/-- The parts of a descriptor that do not stand in the lane map. -/
structure DescIn where
  fok : Bool
  antB : Bool
  new : Bool
  stale : Bool
  ack : Bool
  sub : Nat
  rssiA : Byte
  rssiB : Byte
  buf : Nat
  deriving DecidableEq, Repr

def descriptor (d : DescIn) (lane : BitVec 7) (m : LaneMap) (slot : BitVec 3) (frame : BitVec 32) (p : RxPacket) :
    List Word :=
  let x := branchOf p d.antB
  [bitWord 15 d.fok ||| bitWord 14 p.a.clip ||| bitWord 13 p.b.clip ||| bitWord 12 d.antB ||| bitWord 11 d.new |||
      bitWord 10 d.stale ||| bitWord 9 (m.fec && !d.ack) ||| bitWord 8 d.ack ||| bitWord 7 m.win ||| lane.setWidth 16,
    place m.bin 8 ||| place slot.toNat 5 ||| place d.sub 2 ||| place m.width 0,
    BitVec.ofNat 16 p.syncEnd,
    placeB d.rssiA 8 ||| placeB d.rssiB 0,
    BitVec.ofInt 16 x.foff,
    placeB (BitVec.ofInt 8 (marginOf (m.fec && !d.ack) x)) 8,
    frame.setWidth 16,
    BitVec.ofNat 16 (d.buf / 128)]

/-- The 128 words of a receive buffer: the byte count, the bytes, and undefined words beyond them (R156). -/
def bufferWords (free : Nat) (bytes : List Byte) : List Word :=
  let ws := wordsOfBytes bytes
  BitVec.ofNat 16 bytes.length :: ws ++ (List.range (127 - ws.length)).map (fun i => Config.padWord free i)

/-- Count a drop, a failed header or a filtered packet (R157). -/
def State.countDrop (s : State) : State := { s with lane := { s.lane with dropc := satInc s.lane.dropc } }
def State.countHdr (s : State) : State := { s with lane := { s.lane with hdrc := satInc s.lane.hdrc } }
def State.countFilt (s : State) : State := { s with lane := { s.lane with filtc := satInc s.lane.filtc } }

/-- The deviations of the symbols that end by Tick 1,200 of the slot (R150). -/
def devsInSlot (p : RxPacket) (antB : Bool) (width : Nat) : List Int :=
  (branchOf p antB).devs.take ((19200 - p.syncEnd) / symSixteenths width)

/-- The bytes of a packet as stored, and whether its FCRC is correct: N bytes by LEN, those not received by Tick 1,200 as
zeros, FOK then 0 (R90, R150). -/
def storedPacket (fec : Bool) (outer : Nat) (devs : List Int) : List Byte × Bool :=
  let head := receivedHeader fec outer devs
  let n := (head.getD 1 0).toNat + 16
  let got := head ++ (receivedBytes fec n outer devs).drop 10
  (got ++ List.replicate (n - got.length) 0, got.length == n && fcrcOk got)

/-- The six bytes of an immediate ack (R97, R150). -/
def storedAck (outer : Nat) (devs : List Int) : List Byte :=
  let got := receivedBytes false 6 outer devs
  got ++ List.replicate (6 - got.length) 0

/-- What the front end's calibration leaves of the RSSI (R153, R406): the fields, and whether one is held. -/
def State.rssiOf (s : State) (lane : Nat) (p : RxPacket) : Byte × Byte × Bool :=
  let t := s.frm * 9600 + 1200 * s.seq.slot.toNat + p.syncEnd / 16
  let last := (s.lane.lastRssi.find? (fun x => x.1 == lane)).getD (lane, Config.heldRssi lane, Config.heldRssi lane)
  let ha := s.rxHeldAt .a t
  let hb := s.rxHeldAt .b t
  (if ha then last.2.1 else clampByte p.a.rssi, if hb then last.2.2 else clampByte p.b.rssi, ha || hb)

/-- Every packet's RSSI is the lane's last one for packets to come, a held one again the value it repeats (R153). -/
def State.noteRssi (s : State) (lane : Nat) (p : RxPacket) : State :=
  let rs := s.rssiOf lane p
  { s with lane := { s.lane with lastRssi := (lane, rs.1, rs.2.1) :: s.lane.lastRssi.filter (fun x => x.1 != lane) } }

/-- Buffer and descriptor of a packet that passed its checks (R157). -/
def State.deliverPacket (s : State) (lane : BitVec 7) (m : LaneMap) (ack antB : Bool) (sub : Nat) (p : RxPacket)
    (bytes : List Byte) (fok : Bool) : State :=
  let rs := s.rssiOf lane.toNat p
  let r := s.dmaPop (s.lane.bufqAct.setWidth 5)
  let s := r.2
  let buf := r.1.v.toNat * 128
  if r.1.under || r.1.poison || buf ≥ keyBase then s.countDrop
  else
    let s := { (s.wrN buf (bufferWords s.free bytes)) with free := s.free + 1 }
    let new := if antB then s.rxw.slotNewB else s.rxw.slotNewA
    let d := descriptor { fok := fok, antB := antB, new := new, stale := rs.2.2, ack := ack, sub := sub, rssiA := rs.1,
                          rssiB := rs.2.1, buf := buf } lane m s.seq.slot s.seq.frame p
    let q := s.qpushEntry ((s.lane.cfgAct.get0 lane.toNat).setWidth 5) d
    if q.1 then q.2 else (q.2.qpush (s.lane.bufqAct.setWidth 5) r.1.v).countDrop

/-- The map word of a lane in the current slot. In SEARCH lane 0 serves the upstream beacon channel in every slot, in the
class of the machine's own beacon slot, since R212 names none (DESIGN CHOICE, log entry 68). -/
def State.laneMap (s : State) (lane : Nat) : LaneMap :=
  match s.relay with
  | some r =>
    if s.searching then
      let cls := s.afw.current.classes.getD 0 1
      { en := lane == 0, win := false, width := cls, fec := s.afw.current.fec.getD 0 false,
        bin := (BitVec.ofInt 8 (binOf s.rxw.cenAct0.toNat r.upfreq (binsOf cls))).toNat }
    else LaneMap.ofWord (planMap (s.seq.cur.getD []) s.seq.slot.toNat lane)
  | none => LaneMap.ofWord (planMap (s.seq.cur.getD []) s.seq.slot.toNat lane)

/-- May the lanes of a window receive a packet that starts at `first`: the PLL locked (R12), the window on (R139), and no
blanking span over the preamble (R148)? -/
def State.laneHears (s : State) (m : LaneMap) (first : Int) : Bool :=
  s.clk.lock && !s.clk.rxHold && !s.seq.stopped && m.en && s.winOn m.win && !s.tx.txOn &&
    decide (16 * (s.rxw.blankEnd : Int) ≤ first)

/-- LANE_PACKET_ACCEPT (R7, R80, R87, R150 to R157). In safe-hold lane 0 writes TMON's buffer in the plan store (R425). A
packet whose ten header bytes, or an ack whose ACHK, are not complete by Tick 1,200 counts in LANE_HDRC as one that fails its
check, where R150 does not say (DESIGN CHOICE, log entry 66). -/
def execLanePacketAccept (lane : BitVec 7) (p : RxPacket) (s : State) : Out :=
  let m := s.laneMap lane.toNat
  let first := rxStart p m.width
  let s := { s with rxw := { s.rxw with
    clipA := s.rxw.clipA || p.a.clip, clipB := s.rxw.clipB || p.b.clip,
    slotClipA := s.rxw.slotClipA || p.a.clip, slotClipB := s.rxw.slotClipB || p.b.clip } }
  if !s.laneHears m first then .next s
  else match s.acceptance lane.toNat m first with
    | none => .next s
    | some (ack, sub) =>
      if s.lane.taken.contains (lane.toNat, sub) then .next s
      else match chooseBranch s.district (field (s.lane.cfgAct.get0 lane.toNat) 15 14) (s.lane.lastB.contains lane.toNat) (m.fec && !ack) p with
        | none => .next s
        | some antB =>
          let s := s.noteRssi lane.toNat p
          let s := { s with lane := { s.lane with
            taken := s.lane.taken ++ [(lane.toNat, sub)],
            lastB := if antB then lane.toNat :: s.lane.lastB.filter (· != lane.toNat)
                     else s.lane.lastB.filter (· != lane.toNat) } }
          let devs := devsInSlot p antB m.width
          let outer := (branchOf p antB).outer
          if ack then
            let b := storedAck outer devs
            (if b.getD 1 0 == ackCheckByte s.district (b.getD 0 0) && 8 ≤ devs.length then
              .next (s.deliverPacket lane m true antB sub p b true)
             else .next s.countHdr)
          else if !headerOk m.width (receivedHeader m.fec outer devs) then .next s.countHdr
          else
            let st := storedPacket m.fec outer devs
            let dst := (Header.ofBytes st.1).dst
            if dst != s.lane.ownAct && dst != 0xFFFF && !bit s.lane.filtAct 15 then .next s.countFilt
            else if s.safe.on then
              let ws := BitVec.ofNat 16 st.1.length :: wordsOfBytes st.1
              .next { s with seq := { s.seq with safeBuf := (ws.foldl
                (fun (x : Memory × Nat) w => (x.1.set0 x.2 w, x.2 + 1)) (s.seq.safeBuf, 128)).1 } }
            else .next (s.deliverPacket lane m false antB sub p st.1 st.2)

/-! ### Register values -/

/-- RXW_GAIN (R147). -/
def Rxw.gainWord (x : Rxw) : Word :=
  place x.gainA.toNat 12 ||| place x.gainB.toNat 8 ||| bitWord 7 (agcNew x.agcActA x.statesA) |||
    bitWord 6 (agcNew x.agcActB x.statesB)

/-- A noise floor estimate and whether it is NEW (R143). While a window is off, LEVEL shows its reset value (R139, R144;
log entry 39). -/
def State.floorOf (s : State) (k : BinKey) : Int × Bool :=
  match s.rxw.floor? k with
  | some n => (n.level, decide (n.updates < 16))
  | none => (if s.winOn k.win then s.nfSeed k else 0, true)

/-- RXW_MDATA for the value of RXW_MSEL (R144). A mean bin power is an outside measurement: a free value, one that stays
the same while a step holds it (R406, log entry 40). -/
def State.mdata (s : State) : Word :=
  let w := s.rxw.msel
  let k : BinKey := ⟨if bit w 14 then .b else .a, bit w 13, w.setWidth 8⟩
  let held := s.rxHeldAt k.ant s.now
  if bit w 15 then
    bitWord 14 held |||
      (if held then Config.heldPower (s.stepRuns.map (·.start) |>.getD 0) w else Config.binPower s.free).setWidth 16
  else
    let f := s.floorOf k
    bitWord 15 f.2 ||| bitWord 14 held ||| BitVec.ofNat 16 (levelOf f.1)

/-- A write of RXW_AGCCFGA or B (R147). -/
def State.agcCfg (s : State) (ant : Ant) (v : Word) : State :=
  if agcMode v = 3 ∨ agcMin v > agcMax v then s
  else match ant with
    | .a => { s with rxw := { s.rxw with agcA := v &&& 0xFFFC } }
    | .b => { s with rxw := { s.rxw with agcB := v &&& 0xFFFC } }

def execRxwAgccfgWrite (ant : Ant) (v : Word) (s : State) : Out := .next ((s.wakeRadio 0x2004).agcCfg ant v)

/-- A write of TX_CFG (R167): acted on at the next commit point. Reserved bits read 0. -/
def State.txCfg (s : State) (v : Word) : State :=
  { s with tx := { s.tx with cfg := v &&& 0xF01F, cfgWritten := true } }

def execTxCfgWrite (v : Word) (s : State) : Out := .next ((s.wakeRadio 0x4000).txCfg v)

/-- A write of SYN_INVAL (R164, R166). -/
def State.synInval (s : State) (v : Word) : State :=
  let y := if bit v 0 then s.syn.inval false else s.syn
  { s with syn := if bit v 1 then y.inval true else y }

def execSynInvalWrite (v : Word) (s : State) : Out := .next ((s.wakeRadio 0x4804).synInval v)

end Sys2Proof.Machine
end

