-- ==== Sys2Proof/Machine/Ledger.lean ====
section
/-! DEFINITION. The ledger: node, ledger and segment records, what a report changes in them, the Rotation rollover and
the apportionment pass (08_ledger). AFW reads its tables through `State.rd`. -/

namespace Sys2Proof.Machine

open Sys2Proof

/-! ### Records (R183, R186, R188, R190) -/

def nodeAddr (u : Nat) : Nat := 32 * u
def ledAddr (u : Nat) : Nat := 0x200000 + 16 * u
def segAddr (g : Nat) : Nat := 0x300000 + 32 * g

def State.nodeW (s : State) (u i : Nat) : Word := s.rd (nodeAddr u + i)
def State.ledW (s : State) (u i : Nat) : Word := s.rd (ledAddr u + i)
def State.segW (s : State) (g i : Nat) : Word := s.rd (segAddr g + i)
def State.setNodeW (s : State) (u i : Nat) (w : Word) : State := s.wr (nodeAddr u + i) w
def State.setLedW (s : State) (u i : Nat) (w : Word) : State := s.wr (ledAddr u + i) w
def State.setSegW (s : State) (g i : Nat) (w : Word) : State := s.wr (segAddr g + i) w

/-- Replace bits [hi:lo] of a word. -/
def setField (w : Word) (hi lo v : Nat) : Word :=
  let m : Word := BitVec.ofNat 16 ((2 ^ (hi - lo + 1) - 1) * 2 ^ lo)
  (w &&& ~~~m) ||| (place v lo &&& m)

def setBit (w : Word) (b : Nat) (v : Bool) : Word := setField w b b (if v then 1 else 0)

def State.nodeValid (s : State) (u : Nat) : Bool := bit (s.nodeW u 0) 15
def State.nodeKind (s : State) (u : Nat) : Nat := field (s.nodeW u 0) 14 12
def State.nodeHasPat (s : State) (u : Nat) : Bool := bit (s.nodeW u 0) 11
def State.nodeLost (s : State) (u : Nat) : Bool := bit (s.nodeW u 0) 10
def State.nodeP (s : State) (u : Nat) : Nat := 2 ^ field (s.nodeW u 0) 7 4
def State.nodeD (s : State) (u : Nat) : Nat := field (s.nodeW u 1) 15 13
def State.nodePhase (s : State) (u : Nat) : Nat := field (s.nodeW u 1) 8 0
def State.relay1 (s : State) (u : Nat) : Nat := (s.nodeW u 3).toNat
def State.relay2 (s : State) (u : Nat) : Nat := (s.nodeW u 4).toNat

/-- A core of AFW reads a unit's node and ledger records, or a segment's record, through the ECC logic (R367; log entry 60). -/
def State.readsUnit (s : State) (req u : Nat) : State :=
  if 1 ≤ u ∧ u ≤ 0xFFFE then (s.scan req (nodeAddr u) 32).scan req (ledAddr u) 16 else s

def State.readsSeg (s : State) (req g : Nat) : State := if g ≤ 4095 then s.scan req (segAddr g) 32 else s

/-- A flow or volume in a word pair of a record. -/
def State.seg32 (s : State) (g i : Nat) : Nat := s.rd32 (segAddr g + i)
def State.led32 (s : State) (u i : Nat) : Nat := s.rd32 (ledAddr u + i)

def State.ledTarget (s : State) (u : Nat) : Nat := (s.ledW u 0).toNat + 65536 * field (s.ledW u 1) 7 0
def State.ledQmin (s : State) (u : Nat) : Nat := (s.ledW u 12).toNat + 65536 * field (s.ledW u 14) 7 0
def State.ledQmax (s : State) (u : Nat) : Nat := (s.ledW u 13).toNat + 65536 * field (s.ledW u 14) 15 8
def State.ledFlag (s : State) (u b : Nat) : Bool := bit (s.ledW u 1) b

/-- Set TARGET and one flag bit of a ledger record in one word pair. -/
def State.setTarget (s : State) (u q : Nat) : State :=
  s.wrPair (ledAddr u) (lo16 q) (setField (s.ledW u 1) 7 0 (q / 65536 % 256))

def State.setLedFlag (s : State) (u b : Nat) (v : Bool) : State := s.setLedW u 1 (setBit (s.ledW u 1) b v)

/-- The addresses with a valid node record, ascending. -/
def State.nodes (s : State) : List Nat :=
  s.sram.cells.filterMap (fun c =>
    if c.1 < 0x200000 ∧ c.1 % 32 = 0 ∧ bit c.2 15 = true ∧ c.1 / 32 ≠ 0 ∧ c.1 / 32 ≠ 0xFFFF then some (c.1 / 32) else none)

/-- The valid segments, ascending. -/
def State.segs (s : State) : List Nat :=
  s.sram.cells.filterMap (fun c =>
    if 0x300000 ≤ c.1 ∧ c.1 < 0x320000 ∧ c.1 % 32 = 0 ∧ bit c.2 15 = true then some ((c.1 - 0x300000) / 32) else none)

def State.segValid (s : State) (g : Nat) : Bool := bit (s.segW g 0) 15
def State.segHead (s : State) (g : Nat) : Bool := bit (s.segW g 0) 14
def State.segParent (s : State) (g : Nat) : Nat := field (s.segW g 0) 11 0

/-- The segment of a node, when SEGV. -/
def State.nodeSeg (s : State) (u : Nat) : Option Nat :=
  if bit (s.nodeW u 6) 15 then some (field (s.nodeW u 6) 11 0) else none

/-- The outlets of a segment in list order (ascending address). -/
def State.outletsOf (s : State) (g : Nat) : List Nat :=
  s.nodes.filter (fun u => s.nodeKind u == 0 && s.nodeSeg u == some g)

/-- The valid child segments, ascending. -/
def State.childrenOf (s : State) (g : Nat) : List Nat :=
  s.segs.filter (fun c => !s.segHead c && s.segParent c == g)

/-- Rebuild a segment's outlet list (R190): FIRSTOUT, NOUT and each NEXTOUT. -/
def State.relinkOutlets (s : State) (g : Nat) : State :=
  let l := s.outletsOf g
  let t := (s.setSegW g 13 (lo16 (l.headD 0))).setSegW g 14 (lo16 l.length)
  (l.zip (l.drop 1 ++ [0])).foldl (fun (t : State) p => t.setLedW p.1 15 (lo16 p.2)) t

/-- Rebuild FIRSTCHILD and NEXTSIB of every segment (R190): a head segment, and one whose PARENT is not valid, has no
next sibling. -/
def State.relinkChildren (s : State) : State :=
  s.segs.foldl (fun (t : State) g =>
    let l := t.childrenOf g
    let t := t.setSegW g 15 (lo16 (l.headD 0xFFFF))
    (l.zip (l.drop 1 ++ [0xFFFF])).foldl (fun (t : State) p => t.setSegW p.1 16 (lo16 p.2))
      (if t.segHead g || !t.segValid (t.segParent g) then t.setSegW g 16 0xFFFF else t)) s

/-- Relink every segment. -/
def State.relinkAll (s : State) : State := (s.segs.foldl (fun (t : State) g => t.relinkOutlets g) s).relinkChildren

/-! ### Relays (R209) -/

/-- The relays directly below an upstream end: 0 or a depth-1 relay. -/
def State.relaysBelow (s : State) (up : Nat) : List Nat :=
  s.nodes.filter (fun u => s.nodeKind u == 4 &&
    (if up = 0 then s.relay1 u == 0 else s.relay1 u == up && s.relay2 u == 0))

/-- The district has two relay depths: some relay lies below a relay. -/
def State.twoDepths (s : State) : Bool := s.nodes.any (fun u => s.nodeKind u == 4 && s.relay1 u != 0)

/-- The relay that an exchange of the hop below `up` in frame f serves, in a plan whose P slots serve that hop. -/
def State.servedRelay (s : State) (up f : Nat) : Option Nat :=
  let l := s.relaysBelow up
  let q := if s.twoDepths then f / 2 else f
  if l.isEmpty then none else l[q % l.length]?

/-! ### Reports (R113, R187, R189, R191) -/

/-- The fields of a report payload (R113). -/
structure Report where
  rkind : Nat
  rseq : Byte
  stat : Byte
  pos : Word
  flow : Nat
  vol : Nat
  lasttkt : Word
  lres : Byte
  txpwr : Byte
  brssi : Byte
  deriving DecidableEq, Repr

def Report.ofBytes (p : List Byte) : Report :=
  ⟨(p.getD 0 0).toNat / 16, p.getD 1 0, p.getD 2 0, wordAt p 3, beNat ((p.drop 5).take 3), beNat ((p.drop 8).take 4),
    wordAt p 12, p.getD 14 0, p.getD 15 0, p.getD 16 0⟩

/-- What the receiver knew of a report: level, margin and PADJ given; a forwarded report has none of them. -/
structure Heard where
  rssi : Byte
  margin : Byte
  padj : BitVec 2
  deriving DecidableEq, Repr

/-- KIND of a report in lines and log entries. The codes 4 to 15 are reserved and the manual does not say what AFW does
with them: they are shown as JOIN, and the report is otherwise applied like one without a kind of its own (DESIGN CHOICE,
log entry 69). -/
def rkindText : Nat → String
  | 0 => "SCHED" | 1 => "ALARM" | 2 => "WOKEN" | _ => "JOIN"

/-- The words 12 to 21 of the node record and SAFECLOSE, for a report received in frame f. -/
def State.reportNode (s : State) (u : Nat) (r : Report) (h : Option Heard) (f : Nat) : State :=
  let rssi := match h with | some x => x.rssi | none => loByte (s.nodeW u 14)
  let margin := match h with | some x => x.margin | none => hiByte (s.nodeW u 15)
  let padj := match h with | some x => x.padj.toNat | none => field (s.nodeW u 21) 1 0
  let t := s.wr32 (nodeAddr u + 12) f
  let t := t.wrPair (nodeAddr u + 14) (placeB r.rseq 8 ||| placeB rssi 0) (placeB margin 8 ||| placeB r.stat 0)
  let t := t.wr32 (nodeAddr u + 16) r.flow
  let t := t.wrPair (nodeAddr u + 18) r.pos r.lasttkt
  let t := t.wrPair (nodeAddr u + 20) (placeB r.txpwr 8 ||| placeB r.lres 0) (placeB r.brssi 8 ||| place padj 0)
  t.setNodeW u 0 (setBit (t.nodeW u 0) 8 (r.stat.getLsbD 3))

/-- Frames per Cycle in force: in Relay mode those of the upstream PLAN page, without one the register's (R43, R44). -/
def State.cycleLen (s : State) : Nat := (s.lens.map (·.1)).getD s.seq.cycLen.toNat

/-- A JOIN report enters the default configuration of R110; the unit's server is the transmitter it joined through, this
machine or, for a forwarded report, the last relay of the record's path. -/
def State.reportJoin (s : State) (u : Nat) (direct : Bool) : State :=
  let own := match s.relay with | some r => r.depth | none => 0
  let above := if s.relay1 u = 0 || s.relay2 u = 0 then 1 else 2
  let w0 := setField (setField (setBit (s.nodeW u 0) 11 true) 7 4 6) 3 0 (4 * (if direct then own else above))
  ((s.setNodeW u 0 w0).setNodeW u 1 (place (u % 64) 0)).setNodeW u 2 (lo16 (u % s.cycleLen))

/-- The clamped carry (R200). -/
def carryOf (ent deliv base : Nat) : Int := max (-(base : Int)) (min (base : Int) ((ent : Int) - (deliv : Int)))

def rollEnt (ent deliv base : Nat) (carry : Bool) : Nat :=
  if carry then min 0xFFFFFFFF ((base : Int) + carryOf ent deliv base).toNat else base

/-- Volume d delivered in the Rotation of frame f (R189): to DELIV, or, where that Rotation has ended since, into the carry
with which the record rolled over (R200). -/
def State.deliver (s : State) (u d f : Nat) : State :=
  if s.afw.rollFrame ≤ f then s.wr32 (ledAddr u + 6) (min 0xFFFFFFFF (s.led32 u 6 + d))
  else match s.afw.rolled.find? (fun x => x.unit.toNat == u) with
    | some x =>
      let base := s.led32 u 10
      let roll (deliv : Nat) : Int := (rollEnt x.ent deliv base (s.ledFlag u 10) : Int)
      let deliv := min 0xFFFFFFFF (x.deliv + d)
      let e := (s.led32 u 4 : Int) + roll deliv - roll x.deliv
      ({ s with afw := { s.afw with rolled := s.afw.rolled.map (fun y => if y = x then { x with deliv := deliv } else y) } }).wr32
        (ledAddr u + 4) (min 0xFFFFFFFF e.toNat)
    | none => s.wr32 (ledAddr u + 6) (min 0xFFFFFFFF (s.led32 u 6 + d))

/-- The ledger record of an outlet, from a report received in frame f (R189). -/
def State.reportVolume (s : State) (u vol f : Nat) : State :=
  if s.ledFlag u 11 = false then (s.wr32 (ledAddr u + 8) vol).setLedFlag u 11 true
  else
    let last := s.led32 u 8
    let d := (vol + 2 ^ 32 - last) % 2 ^ 32
    if d ≤ 0x80000000 then (s.deliver u d f).wr32 (ledAddr u + 8) vol
    else
      let t := s.wr32 (ledAddr u + 8) vol
      t.logEvent "VOLRESET" (kvH "unit" 4 u ++ kvN "vol" vol ++ kvN "lastvol" last)

/-- INFLOW of the segment a meter measures, from a report received in frame f (R191). -/
def State.reportInflow (s : State) (u flow f : Nat) : State :=
  match s.nodeSeg u with
  | some g =>
    if flow = 0xFFFFFF then s
    else (s.wr32 (segAddr g + 4) flow).wr32 (segAddr g + 6) (if f = 0 then 1 else f)
  | none => s

/-- Half decibels of a margin byte. -/
def marginText (b : Byte) : String := halves b.toInt

/-- !RPT (R337): level and margin as received, for a forwarded report those of the node record (log entry 46). -/
def State.rptEvent (s : State) (u : Nat) (r : Report) (h : Option Heard) (via : Option Nat) (f : Nat) : State :=
  let rssi := match h with | some x => x.rssi | none => loByte (s.nodeW u 14)
  let margin := match h with | some x => x.margin | none => hiByte (s.nodeW u 15)
  s.event .rpt "" (kvH "unit" 4 u ++ kv "kind" (rkindText r.rkind) ++ kvN "frame" f ++ kvN "rseq" r.rseq.toNat ++
    kvI "rssi" rssi.toInt ++ kv "margin" (marginText margin) ++
    kvN "pos" r.pos.toNat ++ kvN "flow" r.flow ++ kvN "vol" r.vol ++ kvH "stat" 2 r.stat.toNat ++
    (match via with | some v => kvH "via" 4 v | none => ""))

/-- Is a report received in frame f a repeat of one of the last 16 frames (R116)? -/
def State.isRepeat (s : State) (u : Nat) (rseq : Byte) (f : Nat) : Bool :=
  s.afw.seen.any (fun x => x.unit.toNat == u && x.rseq == rseq && decide (f ≤ x.frame + 16))

/-- !ALARM kind=REPORT, for a report with RKIND = ALARM (R337). -/
def State.alarmEvent (s : State) (u : Nat) (r : Report) : State :=
  if r.rkind = 1 then s.event .alarm "" (kv "kind" "REPORT" ++ kvH "unit" 4 u ++ kvH "stat" 2 r.stat.toNat) else s

/-- How a report came: heard by the machine itself (then perhaps in a relay's own alarm window, R133), or forwarded by a
relay with its age. -/
structure ReportIn where
  heard : Option Heard
  via : Option Nat
  /-- The frame of receipt: for a forwarded report that of the bundle (R187). -/
  frame : Nat
  age : Nat
  /-- It is listed in the group acknowledgement (R117). -/
  acked : Bool
  deriving DecidableEq, Repr

/-- !RPT, and !ALARM for one received in a U slot, directly or in an up bundle: not for one of a relay's alarm window, whether
or not the sender has a valid record (R133, R187, R337). -/
def State.reportEvents (s : State) (u : Nat) (r : Report) (x : ReportIn) : State :=
  let t := s.rptEvent u r x.heard x.via x.frame
  if x.acked || x.via.isSome then t.alarmEvent u r else t

/-- What a report of a unit with a valid record changes (R130, R187 to R191). A relay's ledger and segment records stay
unused (R183). -/
def State.reportRecords (s : State) (u : Nat) (r : Report) (x : ReportIn) : State :=
  let t := (s.readsUnit 1 u).reportNode u r x.heard x.frame
  let t := if r.rkind = 3 then t.reportJoin u x.via.isNone else t
  let t := if s.isRelay then t
    else if s.nodeKind u = 0 then t.reportVolume u r.vol x.frame
    else if s.nodeKind u = 1 then t.reportInflow u r.flow x.frame else t
  if r.rkind = 2 then { t with afw := { t.afw with
    woken := (t.afw.woken.filter (fun y => y.1 != lo16 u)) ++ [(lo16 u, x.frame - x.age)] } } else t

/-- A report whose MIC passed: listed, then applied unless it is a repeat (R116, R117, R130, R187 to R191, R337). One
without the whole 17-byte core is listed and has no other effect (DESIGN CHOICE, log entry 69). -/
def State.applyReport (s : State) (u : Nat) (payload : List Byte) (x : ReportIn) : State :=
  let r := Report.ofBytes payload
  let rep := s.isRepeat u r.rseq x.frame
  let t := { s with afw := { s.afw with
    seen := (s.afw.seen.filter (fun y => decide (s.frm ≤ y.frame + 16))) ++
      [⟨lo16 u, r.rseq, x.frame, (x.heard.map (·.padj)).getD 0, x.acked⟩] } }
  if rep || decide (payload.length < 17) then t
  else if !s.nodeValid u then
    (t.logEvent "NOVALID" (kvH "unit" 4 u ++ kv "kind" (rkindText r.rkind))).reportEvents u r x
  else (t.reportRecords u r x).reportEvents u r x

/-! ### Rotation rollover (R200) -/

/-- One record's rollover. -/
def State.rollRecord (s : State) (u : Nat) : State :=
  if s.ledFlag u 15 then
    let e := rollEnt (s.led32 u 4) (s.led32 u 6) (s.led32 u 10) (s.ledFlag u 10)
    (s.wr32 (ledAddr u + 4) e).wr32 (ledAddr u + 6) 0
  else s

/-- The ledger records with ACTIVE = 1. -/
def State.activeRecords (s : State) : List Nat :=
  s.sram.cells.filterMap (fun c =>
    if 0x200000 ≤ c.1 ∧ c.1 < 0x300000 ∧ c.1 % 16 = 1 ∧ bit c.2 15 = true ∧ (c.1 - 0x200000) / 16 ≠ 0 ∧
       (c.1 - 0x200000) / 16 ≠ 0xFFFF then some ((c.1 - 0x200000) / 16) else none)

/-- The rollover at the boundary that begins the current frame; what each record held is kept for reports of the Rotation
that ended which AFW has not handled yet (R189). -/
def State.rollover (s : State) : State :=
  let us := s.activeRecords
  let t := us.foldl (fun (t : State) u => t.rollRecord u) s
  { t with afw := { t.afw with rollFrame := s.frm, rolled := us.map (fun u => ⟨lo16 u, s.led32 u 4, s.led32 u 6⟩) } }

/-! ### The pass (R185, R192 to R197) -/

/-- Convergent rounding of n / d (R185). -/
def rnd (n d : Nat) : Nat :=
  let q := n / d
  let r := n % d
  if 2 * r > d ∨ (2 * r = d ∧ q % 2 = 1) then q + 1 else q

/-- A member with its limits. -/
structure Member where
  isSeg : Bool
  id : Nat
  share : Nat
  lo : Nat
  hi : Nat
  e : Nat
  deriving DecidableEq, Repr

def Member.room (m : Member) : Nat := m.hi - m.lo

/-- One of the three sharing passes: `free` marks the members still in the free set. -/
def sharePass (total : Nat) : Nat → List (Member × Bool) → List (Member × Bool)
  | 0, l => l
  | n + 1, l =>
    let free := l.filter (·.2)
    if free.isEmpty then l
    else
      let sh := free.foldl (fun n x => n + x.1.share) 0
      let used := (l.filter (fun x => !x.2)).foldl (fun n x => n + x.1.e) 0
      let left := total - used
      let step (x : Member × Bool) : Member × Bool :=
        if x.2 then
          let t := rnd (left * x.1.share) sh
          if t > x.1.room then ({ x.1 with e := x.1.room }, false) else ({ x.1 with e := t }, true)
        else x
      let l' := l.map step
      if (List.zip l l').all (fun p => p.1.2 == p.2.2) then l' else sharePass total n l'

/-- The targets of a segment's members for a flow N. -/
def shareOut (n : Nat) (ms : List Member) : List (Member × Nat) :=
  let l := ms.foldl (fun a m => a + m.lo) 0
  if n ≤ l then ms.map (fun m => (m, if l = 0 then 0 else rnd (m.lo * n) l))
  else
    let r := sharePass (n - l) 3 (ms.map (fun m => (m, decide (0 < m.share) && decide (0 < m.room))))
    r.map (fun x => (x.1, x.1.lo + x.1.e))

/-- Is a segment's measurement valid at frame f (R191)? -/
def State.inflowValid (s : State) (g : Nat) : Bool :=
  s.seg32 g 6 != 0 && decide ((s.frm : Int) - (s.seg32 g 6 : Int) ≤ (s.segW g 3).toNat)

/-- An uncorrectable word in n words from a: its address. -/
def State.badWord (s : State) (a n : Nat) : Option Nat :=
  (List.range n).findSome? (fun i => if s.sram.bad.contains (eccWord (a + i)) then some (a + i) else none)

/-- Limits of an outlet member; F is the Frames per Cycle in force. -/
def State.outletMember (s : State) (u : Nat) : Member :=
  let rem := s.led32 u 4 - s.led32 u 6
  let cap := min (rem * 256 / s.seq.cycLen.toNat) 0xFFFFFF
  let hi := min (s.ledQmax u) cap
  ⟨false, u, (s.ledW u 2).toNat, min (s.ledQmin u) hi, hi, 0⟩

def State.segMember (s : State) (g : Nat) : Member :=
  let hi := s.seg32 g 10
  ⟨true, g, (s.segW g 1).toNat, min (s.seg32 g 8) hi, hi, 0⟩

/-- Walk order: depth first from the head segments. -/
def State.walkFrom (s : State) : Nat → Nat → List Nat
  | 0, g => [g]
  | n + 1, g => g :: (s.childrenOf g).flatMap (s.walkFrom n)

def State.walk (s : State) : List Nat := (s.segs.filter s.segHead).flatMap (s.walkFrom 4096)

/-- The order that R197 issues for a target Q: none, or the flow (0 = CLOSE). -/
def State.issueFor (s : State) (u q : Nat) : Option Nat :=
  let tg := s.ledTarget u
  if s.ledFlag u 13 then none
  else if q = 0 then (if tg != 0 || !s.ledFlag u 12 then some 0 else none)
  else if !s.ledFlag u 12 || decide ((s.ledW u 3).toNat < (if q < tg then tg - q else q - tg)) then some q
  else none

/-- What the pass has built so far. -/
structure PassAcc where
  st : State
  alloc : List (Nat × Nat)
  stale : List Nat
  orders : List EngineOrder
  rows : List ShareRow
  deriving DecidableEq, Repr

/-- One segment of the pass; records are read from the snapshot `s`, results go to `a.st`. Beside R195's words for a
damaged record, two points are the model's (DESIGN CHOICE, log entry 73): a child segment whose own record is damaged stays
a member of its sound parent, with the limits and share as stored, and takes its ALLOC; a HELD outlet whose record is
damaged is left out of the held consumption. -/
def passSegment (s : State) (a : PassAcc) (g : Nat) : PassAcc :=
  let setStale (st : State) (v : Bool) : State := st.setSegW g 0 (setBit (st.segW g 0) 12 v)
  let skip (st : State) : PassAcc := { a with st := setStale st true, stale := g :: a.stale }
  if (s.badWord (segAddr g) 17).isSome || (!s.segHead g && a.stale.contains (s.segParent g)) ||
     (s.segHead g && !s.inflowValid g) then skip a.st
    else
      let al := match a.alloc.find? (fun x => x.1 == g) with | some x => x.2 | none => 0
      let inflow := s.seg32 g 4
      let f := if s.segHead g then inflow
        else if bit (s.segW g 0) 13 && s.inflowValid g then min al inflow else al
      let outs := s.outletsOf g
      let outs := outs.filter (fun u => (s.badWord (ledAddr u) 16).isNone)
      let held := (outs.filter (fun u => s.ledFlag u 15 && s.ledFlag u 14)).foldl (fun n u => n + s.ledTarget u) 0
      let n := f - rnd (f * (s.segW g 2).toNat) 65536 - held
      let ms := (outs.filter (fun u => s.ledFlag u 15 && !s.ledFlag u 14)).map s.outletMember ++
        (s.childrenOf g).map s.segMember
      let q := shareOut n ms
      let sum := q.foldl (fun n x => n + x.2) 0
      let st := (setStale a.st false).wr32 (segAddr g + 20) n
      let st := st.wr32 (segAddr g + 22) (n - sum)
      let st := if s.segHead g then st.wr32 (segAddr g + 18) 0 else st
      let st := (q.filter (fun x => x.1.isSeg)).foldl (fun (t : State) x => t.wr32 (segAddr x.1.id + 18) x.2) st
      let iss (x : Member × Nat) : Option Nat := if x.1.isSeg then none else s.issueFor x.1.id x.2
      { st := st,
        alloc := (q.filter (fun x => x.1.isSeg)).map (fun x => (x.1.id, x.2)) ++ a.alloc,
        stale := a.stale,
        orders := a.orders ++ q.filterMap (fun x => (iss x).map (fun fl =>
          ⟨lo16 x.1.id, fl, s.frm + s.afw.dlframes, s.afw.retries⟩)),
        rows := a.rows ++ q.map (fun x => ⟨g, x.1.isSeg, x.1.id, lo16 x.1.share, x.1.lo, x.1.hi, x.2,
          (match iss x with | none => "NONE" | some 0 => "CLOSE" | some _ => "FLOW"), ""⟩) }

/-- The uncorrectable words that the reads for the snapshot meet (R193, R195): of every segment its words 0 to 16, of every
outlet its ledger record. Each is logged; a segment's record is marked STALE. Which of the
cores A2 to A5 reads the word is open: the ECC record names requestor 2 (DESIGN CHOICE, log entry 73). -/
def State.snapshotFaults (s : State) : State :=
  let segs := s.segs.filterMap (fun g => (s.badWord (segAddr g) 17).map (fun b => (g, b)))
  let outs := (s.nodes.filter (fun u => s.nodeKind u == 0)).filterMap (fun u =>
    (s.badWord (ledAddr u) 16).map (fun b => (u, b)))
  let t := segs.foldl (fun (t : State) x =>
    let w := setBit (t.segW x.1 0) 12 true
    ({ t with ecc := t.ecc.uncorrectable x.2 2 }.setSegW x.1 0 w).logEvent "ECCSKIP"
      (kvN "seg" x.1 ++ kvH "addr" 6 x.2)) s
  outs.foldl (fun (t : State) x => { t with ecc := t.ecc.uncorrectable x.2 2 }.logEvent "ECCSKIP"
    (kvH "unit" 4 x.1 ++ kvH "addr" 6 x.2)) t

/-- The computation of a pass (R193, R194): the snapshot is the state at its start. Its copy at 0x580000
(R183) is not written to memory, and PEEK does not show it (DESIGN CHOICE, log entry 73). -/
def State.pass (s : State) : State :=
  let a := s.walk.foldl (passSegment s) ⟨s.snapshotFaults, [], [], [], []⟩
  { a.st with afw := { a.st.afw with
      passOrders := a.orders, rows := a.rows, lastPass := some s.seq.frame,
      passDue := false } }

/-- APPORTIONMENT_PASS (R193, R318): ENABLE, Coordinator mode, the frame STARTFIC or a pass held back by an import; none in STANDBY (R383). -/
def execApportionmentPass (s : State) : Out :=
  let due := s.seq.fic.toNat == s.afw.startfic || s.afw.passDue
  if s.afw.ready && !s.safe.on && !s.asleep && s.afw.enable && !s.isRelay && due && s.afw.lastPass != some s.seq.frame then
    (if s.longKind = some .ledgerImport then .next { s with afw := { s.afw with passDue := true } } else .next s.pass)
  else .next s

end Sys2Proof.Machine
end

