-- ==== Sys2Proof/Machine/BasePlans.lean ====
section
/-! DEFINITION. The frame plans that the shipped AFW makes from its base plan, and wake burst runs laid over a plan
(R24, R31, R34 to R37, R133, R204, R207, R208, R220, R322, R323, R459). -/

namespace Sys2Proof.Machine

open Sys2Proof

/-! ### Channels -/

def State.ownDepth (s : State) : Nat := match s.relay with | some r => r.depth | none => 0

/-- P sides of this machine (R207): even frames, odd frames. A depth-1 relay that holds any node record with KIND = 4
stands in a district of two depths; one that holds none stands in a district of one (log entry 30). -/
def State.pSides (s : State) : Nat × Nat :=
  match s.relay with
  | none => if s.twoDepths then (1, 0) else (1, 1)
  | some r =>
    if r.depth = 2 then (0, 2)
    else if s.nodes.any (fun u => s.nodeKind u == 4) then (2, 1) else (2, 2)

/-- P side in frame g. -/
def State.pSideIn (s : State) (g : Nat) : Nat := if g % 2 = 0 then s.pSides.1 else s.pSides.2

/-! ### The frame plan of a base plan (R323) -/

def BasePlan.role (b : BasePlan) (n : Nat) : Nat := b.roles.getD n 0
def BasePlan.cls (b : BasePlan) (n : Nat) : Nat := b.classes.getD n 1
def BasePlan.coded (b : BasePlan) (n : Nat) : Bool := b.fec.getD n false

/-- The D index of slot n. -/
def BasePlan.dIndex (b : BasePlan) (n : Nat) : Nat := ((b.roles.take n).filter (· == roleD)).length

/-- The channel on which slot n of frame g transmits: B and K on the beacon channel, D by its index, P on the beacon
channel of the exchange's upstream end: a relay's own where it is that end in frame g (R208). A slot of another class keeps
the beacon channel's first bin, so UPFREQ, the centre of that channel, is turned into a bin in the class of slot 0 (log
entry 31). -/
def State.slotChannel (s : State) (b : BasePlan) (g n : Nat) : Option Chan :=
  let role := b.role n
  if role = roleB ∨ role = roleK then b.bch
  else if role = roleD then b.dch[b.dIndex n]?
  else if role = roleP then
    (match s.relay with
     | none => b.bch
     | some r => if s.pSideIn g = 1 then b.bch else some (s.upChannel r (b.cls 0)))
  else none

/-- LEN of a slot's transmit entry (R459). -/
def planLen (role cls : Nat) (fec : Bool) : Nat := if role = roleB then 31 else largestFit role cls fec (classMax cls + 16)

/-- A transmit entry's first six words. -/
def txWords (c : Chan) (fec : Bool) (buf len : Nat) (pwr : Int) : List Word :=
  [bitWord 15 true ||| bitWord 14 c.win ||| bitWord 13 fec ||| c.bin.setWidth 16, lo16 buf, hi16 buf, lo16 len,
    BitVec.ofInt 16 pwr, 0]

def setWords (p : Memory) (a : Nat) (ws : List Word) : Memory :=
  (ws.foldl (fun (x : Memory × Nat) w => (x.1.set0 x.2 w, x.2 + 1)) (p, a)).1

/-- The lane on a D channel: 120 as in the worked example of 02; a relay has lanes 0 to 31 (R18; log entry 31). -/
def State.laneD (s : State) : Nat := if s.isRelay then 0 else 120

/-- The lane maps of slot n in frame g. A relay's lane 0 of slots 0 and 1 serves the upstream beacon channel, its lane 1
of slot 1 its own: the alarm window (R131, R133; log entry 31). -/
def State.slotLanes (s : State) (b : BasePlan) (g n : Nat) : List (Nat × LaneMap) :=
  let cls := b.cls n
  let lane (c : Chan) (cls : Nat) (fec : Bool) : LaneMap :=
    { en := true, win := c.win, width := cls, fec := fec, bin := c.bin.toNat }
  let role := b.role n
  if role = roleU then
    (b.uct.filter (fun x => decide (x.1 < b.n))).map (fun x => (x.1, lane x.2 cls (b.coded n)))
  else if role = roleD then (match s.slotChannel b g n with | some c => [(s.laneD, lane c cls false)] | none => [])
  else if role = roleP then (match s.slotChannel b g n with | some c => [(0, lane c cls (b.coded n))] | none => [])
  else if role = roleB ∨ role = roleK then
    (match s.relay with
     | some r => (0, lane (s.upChannel r (b.cls 0)) cls (b.coded n)) ::
         (if role = roleK then (match b.bch with | some c => [(1, lane c (b.cls 0) (b.coded 0))] | none => []) else [])
     | none => [])
  else []

/-- Add slot n of a base plan to the frame plan of frame g. -/
def State.addSlot (s : State) (b : BasePlan) (g : Nat) (p : Memory) (n : Nat) : Memory :=
  let role := b.role n
  let cls := b.cls n
  let bk := role == roleB || role == roleK
  let w : SlotWord := { role := role, cls := cls, hopwin := if bk then s.ownDepth else 0,
                        peven := if role = roleP then s.pSides.1 else 0,
                        podd := if role = roleP then s.pSides.2 else 0, rsvd := 0 }
  let p := p.set0 (1 + n) w.toWord
  let p := match s.slotChannel b g n with
    | some c => if s.tx.regLock then
        setWords p (0x10 + 8 * n) (txWords c (b.coded n) (Config.txBuffer n) (planLen role cls (b.coded n)) b.pwr) else p
    | none => p
  (s.slotLanes b g n).foldl (fun (p : Memory) x => p.set0 (0x100 + 128 * n + x.1) x.2.toWord) p

/-- The frame plan that PLAN COMMIT builds (R34, R323), as it is for frame g: all frames have one, but for a relay that is
the upstream end of an exchange in odd frames and the downstream end in even ones, which has two (R208; log entry 31). -/
def State.framePlan (s : State) (b : BasePlan) (g : Nat) : Memory :=
  (List.range 8).foldl (s.addSlot b g) (Memory.set0 [] 0 0x1000)

/-- A plan with wake runs over it: every W slot in the wake channel's class, the first one transmitting (R31, R322). -/
def State.overlayWakes (s : State) (p : Memory) (b : BasePlan) (ws : List WakeRun) : Memory :=
  let cls := b.wclass.getD (b.cls 0)
  let w : SlotWord := { role := roleW, cls := cls, hopwin := 0, peven := 0, podd := 0, rsvd := 0 }
  let blank (p : Memory) (n : Nat) : Memory :=
    (p.drop (fun a => (0x10 + 8 * n ≤ a && a < 0x18 + 8 * n) || (0x100 + 128 * n ≤ a && a < 0x180 + 128 * n))).set0
      (1 + n) w.toWord
  ws.foldl (fun (p : Memory) (r : WakeRun) =>
    let p := ((List.range r.n).map (· + r.first)).foldl blank p
    match b.wch with
    | some c => if s.tx.regLock then
        setWords p (0x10 + 8 * r.first) (txWords c false (Config.txBuffer r.first) 2 b.pwr) else p
    | none => p) p

/-! ### The plan in force -/

def State.plan (s : State) : Memory := s.seq.cur.getD []

/-- The plan in force without the wake runs that AFW laid over it for this frame: instances, exchanges and capacities of
other frames are those of this one (R58, R61, R216, R220). -/
def State.basePlan (s : State) : Memory := s.afw.base.getD s.plan

/-- The base plan in the manner of the state: a relay's roles and classes of slots 2 to 7 come from the upstream PLAN
page (R207). -/
def State.effectivePlan (s : State) (b : BasePlan) : BasePlan :=
  match s.relay, s.afw.upPlan with
  | some _, some p =>
    let v := beNat p.1
    { b with
      roles := b.roles.take 2 ++ (List.range 6).map (fun i => v / 2 ^ (53 - 3 * i) % 8),
      classes := b.classes.take 2 ++ (List.range 6).map (fun i => v / 2 ^ (36 - 2 * i) % 4) }
  | _, _ => b

/-- Does a base plan put a P slot at 12.5 kHz, which no exchange can use (R127)? -/
def BasePlan.narrowP (b : BasePlan) : Bool := (List.range 8).any (fun n => b.role n == roleP && b.cls n == 0)

end Sys2Proof.Machine
end

