-- ==== Sys2Proof/Machine/Calls.lean ====
section
/-! DEFINITION. The service calls of TMON (R269 to R274, R282 to R284): each acts on the call that a core has rung, and
a slow call's answer waits for SLOW_CALL_REPLY. -/

namespace Sys2Proof.Machine

open Sys2Proof

/-! ### Calls, arguments and answers -/

/-- The slow calls; every other CODE, known or not, is answered as a fast call (R270, R271). -/
def slowCodes : List Byte := [0x01, 0x02, 0x20, 0x30, 0x34, 0x35, 0x36, 0x37]

/-- The CODE of the call that a core has rung and that TMON has neither worked on yet nor set aside (R269, R278). -/
def State.rung (s : State) (c : CoreId) : Option Byte :=
  if !c.isT && (s.core c).busy && !s.sys.slow.any (fun r => r.caller == c) &&
      !s.sys.waiting.any (fun x => x.1 == c) then some (hiByte ((s.core c).mbox.get 0))
  else none

/-- The core whose fast call TMON serves next: in core order, after the core it last served (R270). -/
def State.fastNext (s : State) : Option CoreId :=
  let after := CoreId.apps.filter (fun c => decide (s.sys.lastServed.num < c.num))
  let before := CoreId.apps.filter (fun c => decide (c.num ≤ s.sys.lastServed.num))
  (after ++ before).find? (fun c => match s.rung c with | some x => !slowCodes.contains x | none => false)

/-- Has the core rung a call with this CODE that TMON has not worked on yet and, where it is a fast one, is the core's
turn (R269, R270)? -/
def State.calling (s : State) (c : CoreId) (code : Byte) : Bool :=
  s.rung c == some code && (slowCodes.contains code || s.fastNext == some c)

/-- The ledger banks of n words from a. -/
def banksOf (a n : Nat) : List Nat := (List.range 8).filter (fun b => decide (bankOf a ≤ b) && decide (b ≤ bankOf (a + n - 1)))

/-- TMON's work on a core's call, which reads some spans of words. If it meets a bank that is off or drains, TMON takes a
BUSERR: it requests the bank's wake and sets the call aside, and serves other calls. Once DOMAIN_WAKE_COMPLETE has come, the
call stands again as rung, and its row is the retry (R278, R389). Else core T's reads pass the ECC logic, and TMON goes on with
the bits of an uncorrectable word (R367; log entry 23). -/
def State.serve (s : State) (c : CoreId) (spans : List (Nat × Nat)) (f : State → Out) : Out :=
  match (spans.flatMap (fun x => banksOf x.1 x.2)).find? (fun b => !s.pwr.bankOn.getLsbD b || s.drains b) with
  | some b => .next { s with sys := { s.sys with waiting := s.sys.waiting ++ [(c, b)] } }
  | none => f (spans.foldl (fun (t : State) x => t.scan 6 x.1 x.2) s)

/-- The words of a key entry. -/
def keySpan (entry : Nat) : Nat × Nat := (keyAddr entry, 8)

/-- Word i of the call. -/
def State.arg (s : State) (c : CoreId) (i : Nat) : Word := (s.core c).mbox.toList.getD i 0

/-- The buffer address in words 1 and 2 (R271). -/
def State.bufArg (s : State) (c : CoreId) : Nat := pair32 (s.arg c 1) (s.arg c 2)

/-- A buffer of n words lies wholly below the key region. -/
def bufOk (a n : Nat) : Bool := a + n ≤ keyBase

/-- The nonce in words 5 to 11: 13 bytes. -/
def State.nonceArg (s : State) (c : CoreId) : List Byte :=
  (bytesOfWords ((List.range 7).map (fun i => s.arg c (5 + i)))).take 13

/-- A fast call's answer (R270). -/
def State.fast (s : State) (c : CoreId) (status : Byte) (ws : List Word) : State :=
  ({ s with sys := { s.sys with lastServed := c } }).reply c status ws

/-- A slow call's answer, given later. -/
def State.slowly (s : State) (c : CoreId) (status : Byte) (ws : List Word) : State :=
  { s with sys := { s.sys with slow := s.sys.slow ++ [⟨c, status, ws⟩] } }

/-- The key entry that words 3 and 4 select; none for a unit address that is no unit's (log entry 20). -/
def State.keyArg (s : State) (c : CoreId) : Option Nat :=
  let sel := s.arg c 3
  if bit sel 15 then some (bslotEntry (s.aon.bslot != bit sel 14))
  else if s.arg c 4 = 0 ∨ s.arg c 4 = 0xFFFF then none
  else some (s.arg c 4).toNat

/-- The unit in word 4. -/
def State.unitArg (s : State) (c : CoreId) : Option Nat :=
  if s.arg c 4 = 0 ∨ s.arg c 4 = 0xFFFF then none else some (s.arg c 4).toNat

/-- Has the transmission of a nonce been committed (R271)? Slot 0's commit point is at Tick 9,581 of the frame before. -/
def State.nonceSpent (s : State) (nonce : List Byte) : Bool :=
  let f := nonceFrame nonce
  let n := nonceSlot nonce
  decide (f < s.frm) ||
    (if n = 0 then f == s.frm || (f == s.frm + 1 && decide (9581 ≤ s.seq.schedTick))
     else f == s.frm && decide (1200 * n - 19 ≤ s.seq.tick))

/-! ### Packets in buffers (R459): word 0 the byte count, bytes from word 1 -/

/-- n bytes of a packet buffer. -/
def State.packetBytes (s : State) (a n : Nat) : List Byte :=
  (bytesOfWords (s.rdN (a + 1) ((n + 1) / 2))).take n

/-- Write bytes over those from offset `off` of the packet in a buffer. -/
def State.setPacketBytes (s : State) (a off : Nat) (bs : List Byte) : State :=
  let n := off + bs.length
  let old := bytesOfWords (s.rdN (a + 1) ((n + 1) / 2))
  s.wrN (a + 1) (wordsOfBytes (old.take off ++ bs ++ old.drop n))

/-- LEN of the header in a buffer. -/
def State.bufLen (s : State) (a : Nat) : Nat := (loByte (s.rd (a + 1))).toNat

/-- Words of a buffer up to the last MIC byte of a packet of LEN payload bytes. -/
def sealWords (len : Nat) : Nat := 1 + (10 + len + 4 + 1) / 2

/-! ### CCM calls (R94, R271) -/

/-- CCM_OPEN. -/
def execCcmOpen (c : CoreId) (s : State) : Out :=
  if s.calling c 0x10 then
    let a := s.bufArg c
    if !bufOk a 2 then .next (s.fast c 0x02 [])
    else s.serve c ((a, sealWords (s.bufLen a)) :: (s.keyArg c).toList.map keySpan) (fun s =>
      let n := s.bufLen a
      if !bufOk a (sealWords n) then .next (s.fast c 0x02 [])
      else match s.keyArg c with
        | none => .next (s.fast c 0x02 [])
        | some e =>
          let k := s.keyBytes e
          if !keyPresent k then .next (s.fast c 0x05 [])
          else
            let b := s.packetBytes a (14 + n)
            match ccmOpenBytes k (s.nonceArg c) (b.take 8) ((b.drop 10).take n) (b.drop (10 + n)) with
            | none => .next (s.fast c 0x06 [])
            | some p => .next ((s.setPacketBytes a 10 p).fast c 0x00 []))
  else .next s

/-- CCM_SEAL: a nonce whose transmission is committed is refused. -/
def execCcmSeal (c : CoreId) (s : State) : Out :=
  if s.calling c 0x11 then
    let a := s.bufArg c
    if !bufOk a 2 || s.nonceSpent (s.nonceArg c) then .next (s.fast c 0x02 [])
    else s.serve c ((a, sealWords (s.bufLen a)) :: (s.keyArg c).toList.map keySpan) (fun s =>
      let n := s.bufLen a
      if !bufOk a (sealWords n) then .next (s.fast c 0x02 [])
      else match s.keyArg c with
        | none => .next (s.fast c 0x02 [])
        | some e =>
          let k := s.keyBytes e
          if !keyPresent k then .next (s.fast c 0x05 [])
          else
            let b := s.packetBytes a (10 + n)
            let r := ccmSealBytes k (s.nonceArg c) (b.take 8) (b.drop 10)
            .next ((s.setPacketBytes a 10 (r.1 ++ r.2)).fast c 0x00 []))
  else .next s

/-- The sealing block of the entry at position k (R121). -/
def sealBlock (key nonce : List Byte) (k : Nat) : List Byte :=
  aesEnc key ([0x5F] ++ nonce ++ [BitVec.ofNat 8 k, 0x00])

/-- Seal the entry at position k of a compound payload (R121): OP, and PARAM of a long entry. -/
def sealEntry (key nonce : List Byte) (k : Nat) (payload : List Byte) : List Byte :=
  let a := sealBlock key nonce k
  let o := 6 * k
  let op := (payload.drop (o + 4)).take 2
  let act := (op.getD 0 0).toNat / 32
  let head := payload.take (o + 4) ++ xorBytes op a
  if act = 2 ∨ act = 3 then
    head ++ (payload.drop (o + 6)).take 2 ++ xorBytes ((payload.drop (o + 8)).take 4) (a.drop 2) ++ payload.drop (o + 12)
  else head ++ payload.drop (o + 6)

/-- ENTRY_SEAL (R121). -/
def execEntrySeal (c : CoreId) (s : State) : Out :=
  if s.calling c 0x12 then
    let a := s.bufArg c
    let k := (s.arg c 3).toNat
    if !bufOk a 2 || s.nonceSpent (s.nonceArg c) then .next (s.fast c 0x02 [])
    else s.serve c ((a, sealWords (s.bufLen a)) :: (s.unitArg c).toList.map keySpan) (fun s =>
      let n := s.bufLen a
      if !bufOk a (sealWords n) || decide (n < 6 * (k + 1)) then .next (s.fast c 0x02 [])
      else match s.unitArg c with
        | none => .next (s.fast c 0x02 [])
        | some u =>
          let key := s.keyBytes u
          if !keyPresent key then .next (s.fast c 0x05 [])
          else
            let p := (s.packetBytes a (10 + n)).drop 10
            .next ((s.setPacketBytes a 10 ((sealEntry key (s.nonceArg c) k p).take n)).fast c 0x00 []))
  else .next s

/-- ACK_CHECK (R97): the associated data are ack bytes 0 and 1, the payload is empty. -/
def execAckCheck (c : CoreId) (s : State) : Out :=
  if s.calling c 0x13 then
    let a := s.bufArg c
    if !bufOk a 4 then .next (s.fast c 0x02 [])
    else match s.unitArg c with
      | none => .next (s.fast c 0x02 [])
      | some u => s.serve c [(a, 4), keySpan u] (fun s =>
        let key := s.keyBytes u
        if !keyPresent key then .next (s.fast c 0x05 [])
        else
          let b := s.packetBytes a 6
          .next (s.fast c (if ccmTag key (s.nonceArg c) (b.take 2) [] = b.drop 2 then 0x00 else 0x06) []))
  else .next s

/-- BKEY_BODY: the other broadcast slot's key becomes the body of a simple order to port 0xF1, sealed. -/
def execBkeyBody (c : CoreId) (s : State) : Out :=
  if s.calling c 0x14 then
    let a := s.bufArg c
    if !bufOk a 2 || s.nonceSpent (s.nonceArg c) then .next (s.fast c 0x02 [])
    else s.serve c ((a, sealWords 24) :: (bslotEntry (!s.aon.bslot) :: (s.unitArg c).toList).map keySpan) (fun s =>
      let b := s.packetBytes a 18
      if s.bufLen a ≠ 24 ∨ bufOk a (sealWords 24) = false then .next (s.fast c 0x02 [])
      else if (Header.ofBytes b).type ≠ 4 ∨ b.getD 13 0 ≠ 0xF1 ∨ b.getD 14 0 ≠ 16 then .next (s.fast c 0x02 [])
      else match s.unitArg c with
        | none => .next (s.fast c 0x02 [])
        | some u =>
          let key := s.keyBytes u
          let other := s.keyBytes (bslotEntry (!s.aon.bslot))
          if !keyPresent key || !keyPresent other then .next (s.fast c 0x05 [])
          else
            let r := ccmSealBytes key (s.nonceArg c) (b.take 8) (b.drop 10 ++ other)
            .next ((s.setPacketBytes a 10 (r.1 ++ r.2)).fast c 0x00 []))
  else .next s

/-! ### Keys (R273, R274) -/

/-- The other broadcast slot becomes current. -/
def State.bkeySwitch (s : State) : State := { s with aon := { s.aon with bslot := !s.aon.bslot } }

/-- The device wrapping key: the first 16 bytes of SHA-256 over "UX-KWRAP" and the secret. -/
def wrappingKey (secret : List Byte) : List Byte :=
  (sha256 ([0x55, 0x58, 0x2D, 0x4B, 0x57, 0x52, 0x41, 0x50] ++ secret)).take 16

/-- KEY_IMPORT of a blob: the status and the state (R274). -/
def State.keyImport (s : State) (blob : List Byte) : Byte × State :=
  match s.otp.secret with
  | none => (0x09, s)
  | some sec =>
    match kwUnwrap (wrappingKey sec) blob with
    | none => (0x07, s)
    | some p =>
      let entry := beNat (p.take 2)
      let kind := p.getD 2 0
      let key := p.drop 8
      let bc := decide (entry = 0 ∨ entry = 0xFFFF)
      if ((p.drop 3).take 5).any (· != 0) || !keyPresent key || (kind != 1 && kind != 2) || (kind == 1 && bc) ||
         (kind == 2 && !bc) then (0x02, s)
      else if bc && entry == bslotEntry s.aon.bslot then (0x09, s)
      else (0x00, s.setKey entry key)

/-- KEY_IMPORT. The key region's bank must be on; which entry is written shows only when the blob has unwrapped. -/
def execKeyImport (c : CoreId) (s : State) : Out :=
  if s.calling c 0x20 then
    let a := s.bufArg c
    if !bufOk a 16 then .next (s.slowly c 0x02 [])
    else s.serve c [(a, 16), (keyBase, 0)] (fun s =>
      let r := s.keyImport (bytesOfWords (s.rdN a 16))
      .next (r.2.slowly c r.1 []))
  else .next s

/-- KEY_DELETE: the entry is set to zero. -/
def State.keyDelete (s : State) (entry : Nat) : State := s.setKey entry (List.replicate 16 0)

/-- The key check value: the first 3 bytes of AES-128(key, 16 zero bytes). -/
def keyCheck (key : List Byte) : List Byte := (aesEnc key (List.replicate 16 0)).take 3

/-- KEY_QUERY. -/
def execKeyQuery (c : CoreId) (s : State) : Out :=
  if s.calling c 0x22 then
    s.serve c [keySpan (s.arg c 1).toNat] (fun s =>
      let k := s.keyBytes (s.arg c 1).toNat
      .next (s.fast c 0x00 ((if keyPresent k then 1 else 0) :: wordsOfBytes (keyCheck k))))
  else .next s

/-! ### Plan and window (R139, R272) -/

/-- PLAN_COMMIT: each word of the plan is read once; the answer follows at PLAN_VALIDATION_END. A plan at an address that is
no multiple of 256 (R34) is read from there all the same: neither R39 nor R272 gives a ground for refusing it (DESIGN
CHOICE, log entry 64). -/
def execPlanCommit (c : CoreId) (s : State) : Out :=
  if s.calling c 0x01 && !(match s.seq.pend with | some p => p.caller == some c && !p.validated | none => false) then
    let a := s.bufArg c
    if !bufOk a 1280 then .next (s.slowly c 0x02 [])
    else s.serve c [(a, 1280)] (fun s => .next (s.commitPlan
      { plan := s.readPlan a, addr := BitVec.ofNat 24 a, caller := some c, validated := false, forCmd := false }))
  else .next s

/-- A valid centre (R139). -/
def centreOk (n : Nat) : Bool := n == 0 || (0x04D260 ≤ n && n ≤ 0x923D80)

/-- The ground on which a new centre is refused: a transmit channel that some plan, current, latched or pending, has in
the window no longer meets R39 (R139). -/
def State.windowFault (s : State) (win : Bool) (n : Nat) : Option Nat :=
  let plans := s.seq.cur.toList ++ s.seq.next.toList ++ (s.seq.pend.map (·.plan)).toList
  plans.findSome? (fun p => channelFault s.region win n p)

/-- Set a window's centre; it takes effect at the next slot boundary. -/
def State.setCentre (s : State) (win : Bool) (n : Nat) : State :=
  if win then { s with rxw := { s.rxw with cen1 := BitVec.ofNat 24 n } }
  else { s with rxw := { s.rxw with cen0 := BitVec.ofNat 24 n } }

/-- WINDOW_SET. -/
def execWindowSet (c : CoreId) (s : State) : Out :=
  if s.calling c 0x02 then
    let win := (s.arg c 1).toNat
    let n := pair32 (s.arg c 2) (s.arg c 3)
    if 1 < win ∨ centreOk n = false then .next (s.slowly c 0x02 [])
    else match s.windowFault (win == 1) n with
      | some g => .next (s.slowly c 0x03 [Config.reason g])
      | none => .next ((s.setCentre (win == 1) n).slowly c 0x00 [])
  else .next s

/-- WMARK_SET (R78). -/
def State.wmarkSet (s : State) (n : Nat) : State := { s with sys := { s.sys with wmark := BitVec.ofNat 32 n } }

def execWmarkSet (c : CoreId) (s : State) : Out :=
  if s.calling c 0x03 then .next ((s.wmarkSet (pair32 (s.arg c 1) (s.arg c 2))).fast c 0x00 []) else .next s

/-! ### Mode, safe-hold, reset (R19, R277, R284, R410) -/

def execModeSet (c : CoreId) (s : State) : Out :=
  if s.calling c 0x30 then .next (s.modeRestart ((List.range 15).map (fun i => s.arg c (1 + i)))) else .next s

/-- MODE_GET: the block in force; Coordinator mode without one. -/
def execModeGet (c : CoreId) (s : State) : Out :=
  if s.calling c 0x31 then .next (s.fast c 0x00 (s.aon.mode.getD coordBlock)) else .next s

/-- SAFE_ENTER: safe-hold with the cause of word 1; there is no reply. -/
def execSafeEnter (c : CoreId) (s : State) : Out :=
  if s.calling c 0x32 then .next (s.enterSafe ((s.arg c 1).setWidth 4)) else .next s

/-- RESET_REQ: a reset with code 0x2. -/
def execResetReq (c : CoreId) (s : State) : Out :=
  if s.calling c 0x33 then .next (s.sampledReset 2 false false) else .next s

/-! ### OTP (R177, R180, R282, R283) -/

/-- SVN_COMMIT: steps blow until the counter equals the running image's SVN. -/
def State.svnCommit (s : State) : Byte × State :=
  if s.img.valid && decide (s.otp.svn ≤ s.img.svn) then (0x00, { s with otp := { s.otp with svn := s.img.svn } })
  else (0x09, s)

def execSvnCommit (c : CoreId) (s : State) : Out :=
  if s.calling c 0x34 then .next (s.svnCommit.2.slowly c s.svnCommit.1 []) else .next s

/-- REGION_WRITE of 83 words: the status, and the record locked, loaded into the gate and the store filled. -/
def State.regionWrite (s : State) (ws : List Word) : Byte × State :=
  if s.otp.region.isSome then (0x08, s)
  else if regionValid ws then
    (0x00, { s with otp := { s.otp with region := some ws }, tx := { s.tx with regLock := true, extPa := regionExt ws },
                    gate := s.gate.fill s.seq.frame.toNat })
  else (0x03, s)

def execRegionWrite (c : CoreId) (s : State) : Out :=
  if s.calling c 0x35 then
    let a := s.bufArg c
    if !bufOk a 83 then .next (s.slowly c 0x02 [])
    else s.serve c [(a, 83)] (fun s =>
      let r := s.regionWrite (s.rdN a 83)
      .next (r.2.slowly c r.1 (if r.1 = 0x03 then [Config.reason 20] else [])))
  else .next s

/-- OTP_SECRET: the secret is written once. -/
def State.otpSecret (s : State) (b : List Byte) : Byte × State :=
  if s.otp.secret.isSome then (0x08, s) else (0x00, { s with otp := { s.otp with secret := some b } })

def execOtpSecret (c : CoreId) (s : State) : Out :=
  if s.calling c 0x36 then
    let r := s.otpSecret (bytesOfWords ((List.range 8).map (fun i => s.arg c (1 + i))))
    .next (r.2.slowly c r.1 [])
  else .next s

/-- OTP_KEYHASH: SHA-256 of the running image's PUBKEY. -/
def State.otpKeyhash (s : State) : Byte × State :=
  if s.otp.keyHash.isSome then (0x08, s) else (0x00, { s with otp := { s.otp with keyHash := some s.img.keyHash } })

def execOtpKeyhash (c : CoreId) (s : State) : Out :=
  if s.calling c 0x37 then .next (s.otpKeyhash.2.slowly c s.otpKeyhash.1 []) else .next s

/-! ### Test transmissions (R181) -/

/-- Does a test entry of a class meet the region record: channel in a range, power and time within its limits? -/
def State.radioOk (s : State) (e : TxEntry) (cls : Nat) : Bool :=
  match s.region with
  | none => false
  | some ws =>
    match rangeOf ws (s.cenNew e.win) e.bin (binsOf cls) with
    | none => false
    | some j =>
      let r := regionRange ws j
      e.bin % binsOf cls == 0 && decide (sword e.pwr ≤ r.pmax) && !overTxmax r (packetTicks cls e.len e.fec)

/-- RADIO_CHECK. The entry of R36 names no class: where the classes disagree, which one counts is a free value. -/
def execRadioCheck (c : CoreId) (s : State) : Out :=
  if s.calling c 0x40 then
    let w (i : Nat) : Word := s.arg c (1 + i)
    let e := TxEntry.ofWords (w 0) (w 1) (w 2) (w 3) (w 4) (w 5)
    let o := (List.range 3).map (s.radioOk e)
    let f := s.takeFree
    let ok := if o.all id then true else if o.any id then o.getD (f.1.toNat % 3) false else false
    .next (f.2.fast c (if ok then 0x00 else 0x03) (if ok then [] else [Config.reason 21]))
  else .next s

/-! ### Answers -/

/-- SLOW_CALL_REPLY (R270): the call of this core that TMON has finished is answered. -/
def execSlowCallReply (c : CoreId) (s : State) : Out :=
  match s.sys.slow.find? (fun r => r.caller == c) with
  | none => .next s
  | some r =>
    .next (({ s with sys := { s.sys with slow := s.sys.slow.filter (fun x => x.caller != c) } }).reply c r.status r.words)

/-- The codes of the call table. -/
def knownCodes : List Byte :=
  [0x01, 0x02, 0x03, 0x10, 0x11, 0x12, 0x13, 0x14, 0x15, 0x20, 0x21, 0x22] ++
  [0x30, 0x31, 0x32, 0x33, 0x34, 0x35, 0x36, 0x37, 0x40]

/-- BADCALL (R270): a call with an unknown CODE. -/
def execBadcall (c : CoreId) (s : State) : Out :=
  let code := hiByte ((s.core c).mbox.get 0)
  if s.calling c code && !knownCodes.contains code then .next (s.fast c 0x01 []) else .next s

/-- DUP_RING (R269): a second RING while BUSY is 1 is ignored and sets DUP. -/
def execDupRing (c : CoreId) (s : State) : Out :=
  if (s.core c).busy then .next (s.modCore c (fun k => { k with dup := true })) else .next s

end Sys2Proof.Machine
end

