-- ==== Sys2Proof/Machine/Orders.lean ====
section
/-! DEFINITION. Admission: instances, chains, capacities, the duty model, tickets, and the outstanding-order table
(R53 to R66, R122, R123, R201, R218, R461). -/

namespace Sys2Proof.Machine

open Sys2Proof

/-! ### Slots and capacities of the plan -/

def slotsOf (p : Memory) (role : Nat) : List Nat := (List.range 8).filter (fun n => (planSlot p n).role == role)

/-- Is frame f frame 0 of a Cycle (R43, R44)? -/
def State.isFrame0 (s : State) (f : Nat) : Bool :=
  let d := f - s.frm
  let left := s.seq.cycLen.toNat - s.seq.fic.toNat
  if f < s.frm then false
  else if d = 0 then s.seq.fic == 0
  else if d < left then false
  else (d - left) % (s.seq.cycPend.getD s.seq.cycLen).toNat == 0

/-- Does a wake burst run of a transmitter cover the slot? -/
def State.covered (s : State) (txr f n : Nat) : Bool :=
  s.afw.wakes.any (fun w => w.via.toNat == txr && w.frame == f && decide (w.first ≤ n) && decide (n < w.first + w.n))

/-- Largest payload of a packet in a role's window (R98). -/
def maxLen (role cls : Nat) (fec : Bool) : Nat := largestFit role cls fec (classMax cls + 16) - 16

/-- Positions of a compound packet (R60, R122); bundles hold as many entries. -/
def packetCap (cls : Nat) (fec : Bool) : Nat := min (if cls = 0 then 4 else 8) (maxLen roleD cls fec / 6)

def State.slotCls (s : State) (n : Nat) : Nat := (planSlot s.basePlan n).cls
def State.slotFec (s : State) (n : Nat) : Bool := (planEntry s.basePlan n).fec

def State.slotCap (s : State) (n : Nat) : Nat := packetCap (s.slotCls n) (s.slotFec n)

/-- The full order window of a class in Ticks (R61). -/
def orderWindow (cls : Nat) : Nat := if cls = 0 then 452 else if cls = 1 then 436 else 756

/-! ### Units -/

/-- The relays on a unit's path, outermost last. -/
def State.path (s : State) (u : Nat) : List Nat :=
  if s.relay1 u = 0 then [] else if s.relay2 u = 0 then [s.relay1 u] else [s.relay1 u, s.relay2 u]

/-- The delivering transmitter (R58). -/
def State.server (s : State) (u : Nat) : Nat := (s.path u).getLastD 0

/-- Does the unit listen in frame f: its pattern, or every frame for 64 frames after a WOKEN report (R58, R130)? -/
def State.listens (s : State) (u f : Nat) : Bool :=
  f % s.nodeP u == s.nodePhase u ||
    s.afw.woken.any (fun w => w.1.toNat == u && decide (w.2 < f) && decide (f ≤ w.2 + 64))

/-- The slot of D index d in frame f for a transmitter (R58, R25, R461). The coordinator's own entry must transmit in it;
a relay's D channels are its own. -/
def State.instSlot (s : State) (txr d f : Nat) : Option Nat :=
  match (slotsOf s.basePlan roleD)[d]? with
  | none => none
  | some n =>
    if (n = 7 ∧ s.isFrame0 f = true) ∨ s.covered txr f n = true ∨ (txr = 0 ∧ (planEntry s.basePlan n).en = false) then none
    else some n

/-! ### Exchanges (R30, R209) -/

/-- Does the P slot n of frame f serve the hop below `up` (0, or a depth-1 relay), and there this relay? -/
def State.serves (s : State) (f n up relay : Nat) : Bool :=
  let w := planSlot s.basePlan n
  w.role == roleP && !(n == 7 && s.isFrame0 f) &&
    (if up = 0 then pSide w f == 1 else s.twoDepths && f % 2 == 1) &&
    s.servedRelay up f == some relay

/-! ### Reservations -/

/-- A reserved try with what it takes: positions in the packet and in bundles. -/
structure Resv where
  unit : Nat
  simple : Bool
  npos : Nat
  bpos : Nat
  t : Try
  deriving DecidableEq, Repr

/-- Positions of an action in a compound packet (R120). -/
def actPos (act : Nat) : Nat := if act = 2 ∨ act = 3 then 2 else if act = 7 then 0 else 1

/-- Positions in a down bundle (R128, R218). -/
def bundlePos (act blen : Nat) : Nat := if act = 7 then 1 + (blen + 1 + 5) / 6 else actPos act

def OrderX.resvs (o : OrderX) : List Resv :=
  o.tries.map (fun t => ⟨o.unit.toNat, o.act == 7, actPos o.act, bundlePos o.act o.body.length, t⟩)

def State.resvs (s : State) : List Resv := s.afw.orders.flatMap OrderX.resvs

def inInst (r : Resv) (txr f n : Nat) : Bool := r.t.txr.toNat == txr && r.t.frame == f && r.t.slot == n

def hasHop (l : List Hop) (f n : Nat) (relay : Nat) : Bool :=
  l.any (fun h => h.frame == f && h.slot == n && h.relay.toNat == relay)

/-- The P slot of frame f that carries the control positions of an exchange: the first that serves it (R128). -/
def State.ctlSlot (s : State) (f up relay : Nat) : Option Nat := (List.range 8).find? (fun n => s.serves f n up relay)

/-- Does a relayed wake put a control position into the exchange with this relay in slot n of frame f? -/
def State.wakeIn (s : State) (f n relay : Nat) (w : WakeRun) : Bool :=
  let outer := s.relay1 w.via.toNat
  w.via != 0 &&
    ((w.bundle == f && (if outer = 0 then w.via.toNat == relay else outer == relay) && s.ctlSlot f 0 relay == some n) ||
     (outer != 0 && w.bundle + w.noff == f && w.via.toNat == relay && s.ctlSlot f outer relay == some n))

/-- Entries used in a down bundle, the control positions of wakes among them (R128). -/
def State.downUsed (s : State) (all : List Resv) (f n relay : Nat) : Nat :=
  (all.filter (fun r => hasHop r.t.down f n relay)).foldl (fun k r => k + r.bpos) 0 +
    (s.afw.wakes.filter (s.wakeIn f n relay)).length

def upUsed (all : List Resv) (f n relay : Nat) : Nat := (all.filter (fun r => hasHop r.t.up f n relay)).length

/-! ### Chains (R59); slots are counted from frame 0, eight to a frame -/

/-- Down chain for the relays of a path, inner relay first: each exchange is the latest that ends at least 1,200 Ticks
before what follows and has room. `lo` is the first slot to search. TOFF and NOFF count whole frames, so each exchange
lies in an earlier frame than what follows, and an onward exchange is the frame's first (R128). -/
def State.downChain (s : State) (all : List Resv) (bpos lo : Nat) : List (Nat × Nat) → Nat → Option (List Hop)
  | [], _ => some []
  | (up, relay) :: rest, next =>
    match (List.range (next - 1 - lo)).find? (fun i =>
        let k := next - 2 - i
        decide (2 + i ≤ next) && decide (k / 8 < next / 8) && s.serves (k / 8) (k % 8) up relay &&
          (up == 0 || s.ctlSlot (k / 8) up relay == some (k % 8)) &&
          decide (s.downUsed all (k / 8) (k % 8) relay + bpos ≤ s.slotCap (k % 8))) with
    | none => none
    | some i =>
      let k := next - 2 - i
      (s.downChain all bpos lo rest k).map (fun l => l ++ [⟨k / 8, k % 8, lo16 up, lo16 relay⟩])

/-- Up chain, inner relay first: each exchange is the earliest that starts at least 1,200 Ticks after what came
before and has a free result entry, and starts before slot `hi`. -/
def State.upChain (s : State) (all : List Resv) (hi : Nat) : List (Nat × Nat) → Nat → Option (List Hop)
  | [], _ => some []
  | (up, relay) :: rest, prev =>
    match (List.range (hi - (prev + 2))).find? (fun i =>
        let k := prev + 2 + i
        s.serves (k / 8) (k % 8) up relay && decide (upUsed all (k / 8) (k % 8) relay + 1 ≤ s.slotCap (k % 8))) with
    | none => none
    | some i =>
      let k := prev + 2 + i
      (s.upChain all hi rest k).map (fun l => ⟨k / 8, k % 8, lo16 up, lo16 relay⟩ :: l)

/-- The hops of a path from the inner relay outwards: pairs of upstream end and relay. -/
def hopsOf : List Nat → List (Nat × Nat)
  | [] => []
  | [r] => [(0, r)]
  | r1 :: r2 :: _ => [(r1, r2), (0, r1)]

/-! ### Expected reports (R101, R114) -/

/-- The place of a unit's scheduled report in frame f: its U index counts the plan's U slots in slot order, modulo their number,
and the hop index gives the entry of the uplink channel table. The C slot has none (R25). -/
def State.expectAt (s : State) (u f : Nat) : Option Expected :=
  let us := slotsOf s.basePlan roleU
  let k := field (s.nodeW u 0) 1 0 % us.length
  match us[k]? with
  | some n =>
    if n = 7 ∧ s.isFrame0 f = true then none
    else some ⟨lo16 u, f, n, hopIndex u f k s.district s.afw.current.n⟩
  | none => none

/-- The scheduled reports of the current frame: of every unit that this machine serves and whose report offset is FIC. -/
def State.expectNow (s : State) : List Expected :=
  (s.nodes.filter (fun u => s.nodeKind u != 4 && s.relay1 u == 0 && field (s.nodeW u 2) 11 0 == s.seq.fic.toNat)).filterMap
    (fun u => s.expectAt u s.frm)

/-! ### Duty model (R61) -/

/-- The descriptor of a relay (R205). -/
def State.descOf (s : State) (relay : Nat) : Option RelayDesc := s.afw.relayDesc.find? (fun d => d.relay.toNat == relay)

/-- Does a relay send the down bundle of its own hop in frame f (R30, R207)? In every other exchange it sends up. -/
def State.sendsDown (s : State) (txr f : Nat) : Bool :=
  s.relay1 txr == 0 && s.twoDepths && f % 2 == 1 && (s.servedRelay txr f).isSome

/-- Twice the centre of a beacon channel's bins in a slot of a class, from its centre f in the class of slot 0: the first
bin is the same (R208; log entry 31). -/
def State.beaconCentre (s : State) (f cls : Nat) : Nat :=
  2 * f + 125 * binsOf cls - 125 * binsOf (planSlot s.basePlan 0).cls

/-- The range of the channel that a transmitter uses in slot n of frame f: the coordinator's own channel, or a relay's by its
descriptor, in a P slot the beacon channel of the exchange's upstream end (R208); without a descriptor, the channel of the
coordinator's slot stands for it (log entry 22). -/
def State.txRange (s : State) (txr f n : Nat) : Option Nat :=
  let ws := s.region.getD []
  let w := planSlot s.basePlan n
  let e := planEntry s.basePlan n
  let own := rangeOf ws (s.cenNew e.win) e.bin (binsOf w.cls)
  let owner := if w.role = roleP ∧ s.sendsDown txr f = false then s.relay1 txr else txr
  if owner = 0 then own
  else match s.descOf owner with
    | none => own
    | some d =>
      let c := if w.role = roleD then 2 * d.dch.getD ((slotsOf s.basePlan roleD).idxOf n) d.beacon
        else s.beaconCentre d.beacon w.cls
      rangeAt ws c (binsOf w.cls)

/-- The range of the coordinator's wake channel. -/
def State.wakeRange (s : State) (c : Chan) : Option Nat :=
  rangeOf (s.region.getD []) (s.cenNew c.win) c.bin.toNat
    (binsOf (s.afw.current.wclass.getD (s.afw.current.classes.headD 1)))

/-- The range of a transmitter's wake channel: a relay's by its descriptor; without one, the coordinator's (R205, R219; log
entry 22). -/
def State.burstRange (s : State) (txr : Nat) : Option Nat :=
  let own := s.afw.current.wch.bind s.wakeRange
  if txr = 0 then own
  else match s.descOf txr with
    | some d =>
      rangeAt (s.region.getD []) (2 * d.wake) (binsOf (s.afw.current.wclass.getD (s.afw.current.classes.headD 1)))
    | none => own

/-- Largest packet of a relay's slot by the rule of R459. -/
def relayLen (role cls : Nat) (fec : Bool) : Nat :=
  if role = roleB then 31 else largestFit role cls fec (classMax cls + 16)

/-- Standing load of a slot of a transmitter in frame f (R61), in Ticks. -/
def State.standing (s : State) (txr f n : Nat) : Nat :=
  let w := planSlot s.basePlan n
  let e := planEntry s.basePlan n
  if n = 7 ∧ s.isFrame0 f = true then 0
  else if txr = 0 then
    (if e.en = false then 0
     else if w.role = roleB ∨ w.role = roleK then packetTicks w.cls e.len e.fec
     else if w.role = roleP then
       (if pSide w f = 1 ∧ (s.servedRelay 0 f).isSome = true then packetTicks w.cls e.len e.fec else 0)
     else if w.role = roleW ∧ wFirst s.basePlan n = n then wRunTicks (wRunLen s.basePlan (if s.isFrame0 f then 6 else 7) n)
     else 0)
  else if w.role = roleB ∨ w.role = roleK then packetTicks w.cls (relayLen w.role w.cls e.fec) e.fec
  else if w.role = roleP then
    (let down := s.serves f n 0 txr || s.serves f n (s.relay1 txr) txr
     if down || s.sendsDown txr f then packetTicks w.cls (relayLen roleP w.cls e.fec) e.fec else 0)
  else 0

/-- Load that a frame's slots will still put on air in range j: standing load and reserved instances in the slot's range,
wake runs in the wake channel's (R61, R219). Slots whose commit point has passed are in the gate's record already. -/
def State.load (s : State) (all : List Resv) (txr j f : Nat) : Nat :=
  (List.range 8).foldl (fun k n =>
    let live := txr != 0 || decide (s.now + 19 < f * 9600 + 1200 * n)
    let inst := all.any (fun r => inInst r txr f n)
    let own := if s.covered txr f n then 0 else s.standing txr f n + (if inst then orderWindow (s.slotCls n) else 0)
    let wakes := (s.afw.wakes.filter (fun w => w.via.toNat == txr && w.frame == f && w.first == n)).foldl
      (fun m w => m + wRunTicks w.n) 0
    if live then k + (if s.txRange txr f n == some j then own else 0) + (if s.burstRange txr == some j then wakes else 0)
    else k) 0

/-- What a transmitter's record holds for a frame. -/
def State.recorded (s : State) (txr j : Nat) (f : Int) : Nat :=
  let r := regionRange (s.region.getD []) j
  if txr = 0 then s.gate.charged j f f + (if s.gate.filled then fillFrames s.gate.coldC f f * dutyFill r else 0)
  else match s.afw.relayDuty.find? (fun d => d.relay.toNat == txr && d.range == j && (d.frame : Int) == f) with
    | some d => d.ticks
    | none => 0

/-- On-air total of a frame in the model. -/
def State.total (s : State) (all : List Resv) (txr j : Nat) (f : Int) : Nat :=
  s.recorded txr j f + (if (s.frm : Int) ≤ f then s.load all txr j f.toNat else 0)

/-- Every window along a list holds at most `lim`: `sum` is the first window's total, then frames join and leave. -/
def slideOk (lim : Int) : Int → List Nat → List Nat → Bool
  | sum, x :: xs, y :: ys => decide (sum ≤ lim) && slideOk lim (sum + (x : Int) - (y : Int)) xs ys
  | sum, _, _ => decide (sum ≤ lim)

/-- Does a charge of c Ticks in frame f fit the model of a transmitter's range (R61)? -/
def State.dutyFits (s : State) (all : List Resv) (txr : Nat) (range : Option Nat) (f c : Nat) : Bool :=
  match range with
  | none => false
  | some j =>
    let r := regionRange (s.region.getD []) j
    r.duty == 1000 ||
      (let w := r.dwin
       let tot : List Nat := (List.range (2 * w + 1)).map (fun (i : Nat) => s.total all txr j ((f : Int) - (w : Int) + (i : Int)))
       let first : Nat := (tot.take (w + 1)).foldl (· + ·) 0
       slideOk (dutyLimit r - (c : Int)) (first : Int) (tot.drop (w + 1)) tot)

/-! ### Admission (R63) -/

/-- An order as submitted. -/
structure OrderReq where
  members : List Nat
  grp : Option Nat
  act : Nat
  param : Nat
  port : Nat
  body : List Byte
  deadline : Nat
  retries : Nat
  engine : Bool
  netcfg : Option (List Word)
  keySend : Bool
  deriving DecidableEq, Repr

/-- Rejections of R65. -/
inductive Rej where
  | tableFull | wrongMode | unknownUnit (u : Option Nat) | noPath (u : Nat) | badArg (u : Nat) | noRoom
  | tooEarly (efd : Nat)
  deriving DecidableEq, Repr

/-- The first free positions of an instance of the coordinator, n in a row below cap. -/
def firstFree (used : List (Nat × Nat)) (n cap : Nat) : Option Nat :=
  (List.range (cap + 1 - n)).find? (fun p => used.all (fun u => decide (p + n ≤ u.1) || decide (u.1 + u.2 ≤ p)))

/-- A try in the instance of frame f, if it fits (R59 to R62): `from` is now + lead, `after` the end of the unit's last
reserved instance, `hend` the end of the horizon. -/
def State.tryAt (s : State) (all : List Resv) (q : OrderReq) (u start after hend f : Nat) : Option Try :=
  let path := s.path u
  let txr := path.getLastD 0
  if s.listens u f = false then none
  else match s.instSlot txr (s.nodeD u) f with
    | none => none
    | some n =>
      let k := 8 * f + n
      let here := all.filter (fun r => inInst r txr f n)
      let cap := s.slotCap n
      let np := actPos q.act
      let pos := if q.act = 7 then (if here.isEmpty then some 0 else none)
        else if here.any (·.simple) then none
        else if txr = 0 then firstFree (here.map (fun r => (r.t.pos.getD 0, r.npos))) np cap
        else if here.foldl (fun m r => m + r.npos) 0 + np ≤ cap then some 0 else none
      if pos.isNone || here.any (fun r => r.unit == u) || decide (1200 * k < after) || decide (hend ≤ 1200 * k) then none
      else if here.isEmpty && !s.dutyFits all txr (s.txRange txr f n) f (orderWindow (s.slotCls n)) then none
      else if txr = 0 then
        (if 1200 * k < start + 19 ∨ hend ≤ 1200 * k - 19 then none
         else some { frame := f, slot := n, txr := 0, down := [], up := [], commit := 1200 * k - 19,
                     outcomeAt := 1200 * (k + 1), pos := pos, result := none, placed := false, sent := false })
      else match s.downChain all (bundlePos q.act q.body.length) (8 * s.frm) (hopsOf path) k,
          s.upChain all (hend / 1200) (hopsOf path) k with
        | some dn, some up =>
          let k1 := match dn.head? with | some h => 8 * h.frame + h.slot | none => k
          let kl := match up.getLast? with | some h => 8 * h.frame + h.slot | none => k
          let h1 := dn.headD ⟨f, n, 0, 0⟩
          if 1200 * k1 < start + 19 ∨ f - h1.frame > 255 ∨ ((dn.getD 1 h1).frame - h1.frame) > 127 then none
          else some { frame := f, slot := n, txr := lo16 txr, down := dn, up := up, commit := 1200 * k1 - 19,
                      outcomeAt := 1200 * (kl + 1), pos := none, result := none, placed := false, sent := false }
        | _, _ => none

def asResv (q : OrderReq) (u : Nat) (t : Try) : Resv := ⟨u, q.act == 7, actPos q.act, bundlePos q.act q.body.length, t⟩

/-- The end of the last instance reserved for a unit (R62). -/
def lastEnd (all : List Resv) (u : Nat) : Nat :=
  (all.filter (fun r => r.unit == u)).foldl (fun m r => max m (9600 * r.t.frame + 1200 * (r.t.slot + 1))) 0

/-- The tries of one member, searched over frames in time order. -/
def State.findTries (s : State) (q : OrderReq) (u start hend : Nat) : List Nat → List Resv → Nat → List Try → List Try
  | [], _, _, acc => acc
  | f :: fs, all, after, acc =>
    if acc.length > q.retries then acc
    else match s.tryAt all q u start after hend f with
      | none => s.findTries q u start hend fs all after acc
      | some t => s.findTries q u start hend fs (all ++ [asResv q u t]) (9600 * f + 1200 * (t.slot + 1)) (acc ++ [t])

/-- The largest body of an OPAQUE order to a unit (R54, R123, R218). -/
def State.bodyLimit (s : State) (u : Nat) : Nat :=
  let n := ((slotsOf s.basePlan roleD)[s.nodeD u]?).getD 0
  let own := maxLen roleD (s.slotCls n) (s.slotFec n) - 8
  if s.path u = [] then own
  else
    let caps := (slotsOf s.basePlan roleP).map s.slotCap
    min own (6 * (caps.foldl min 8 - 1) - 1)

/-- A member's standing checks. -/
def State.memberFault (s : State) (q : OrderReq) (u : Nat) : Option Rej :=
  if !s.nodeValid u then some (.unknownUnit (some u))
  else if !s.nodeHasPat u || (s.path u).any s.nodeLost then some (.noPath u)
  else if q.act = 7 ∧ decide (s.nodeD u < (slotsOf s.basePlan roleD).length) = true ∧ s.bodyLimit u < q.body.length then
    some (.badArg u)
  else none

/-- Hold tries for every member in ascending address. -/
def State.holdAll (s : State) (q : OrderReq) (lead hend : Nat) :
    List Nat → List Resv → Nat → Except Rej (List (List Try) × Nat)
  | [], _, latest => .ok ([], latest)
  | u :: us, all, latest =>
    let frames := (List.range s.seq.cycLen.toNat).map (· + s.frm)
    let ts := s.findTries q u (s.now + lead) hend frames all (lastEnd all u) []
    if ts.length ≤ q.retries then .error .noRoom
    else
      match s.holdAll q lead hend us (all ++ ts.map (asResv q u)) (max latest ((ts.getLast?.map (·.outcomeAt)).getD 0)) with
      | .ok (r, l) => .ok (ts :: r, l)
      | .error e => .error e

/-- Are n consecutive tickets from t free, without a wrap (R56)? -/
def ticketsFree (busy : List Nat) (n t : Nat) : Bool :=
  decide (t + n ≤ 0x10000) && (List.range n).all (fun i => !busy.contains (t + i))

/-- The walk over the ticket values from t. -/
def ticketWalk (busy : List Nat) (n : Nat) : Nat → Nat → Option Nat
  | 0, _ => none
  | k + 1, t => if ticketsFree busy n t then some t else ticketWalk busy n k (if t < 0xFFFF then t + 1 else 1)

/-- Tickets (R56): the walk from the kept position to a run of n free values below the wrap. -/
def issueStart (pos : Nat) (busy : List Nat) (n : Nat) : Option Nat := ticketWalk busy n 65535 pos

/-- The lowest free entries of the outstanding-order table. -/
def freeEntries (used : List Nat) (n : Nat) : List Nat :=
  ((List.range (used.length + n)).filter (fun i => !used.contains i)).take n

def ordAddr (i : Nat) : Nat := 0x320000 + 16 * i

/-- The address of the body of an OPAQUE order of table entry i (R201): 64 words for each in the workspace (R183; DESIGN
CHOICE, log entry 7). -/
def bodyAddr (i : Nat) : Nat := 0x680000 + 64 * i

/-- The words of table entry i (R201). -/
def orderWords (q : OrderReq) (i ticket u : Nat) (tries : List Try) : List Word :=
  let first := (tries.head?.map (·.frame)).getD 0
  let last := (tries.getLast?.map (·.frame)).getD 0
  let param := if q.act = 7 then bodyAddr i else q.param
  let resv := Config.resvIndex (lo16 ticket)
  [lo16 ticket, lo16 u, place q.act 13 ||| bitWord 12 q.engine ||| bitWord 11 q.grp.isSome ||| place q.retries 8,
    place (q.grp.getD 0) 0, lo16 param, hi16 param, lo16 q.deadline, hi16 q.deadline, lo16 first, hi16 first,
    lo16 last, hi16 last, 0, 0, lo16 resv, hi16 resv]

/-- The earliest deadline of an outstanding order goes to TMON (R78). -/
def State.updateWmark (s : State) : State :=
  let ds := s.afw.orders.map (fun o => s.rd32 (ordAddr o.idx + 6))
  s.wmarkSet (match ds with | [] => 0xFFFFFFFF | d :: r => r.foldl min d)

/-- Write accepted member orders (R64). -/
def State.acceptOrders (s : State) (q : OrderReq) : List (Nat × Nat × Nat × List Try) → State
  | [] => s
  | (idx, ticket, u, ts) :: r =>
    let t := (s.wrN (ordAddr idx) (orderWords q idx ticket u ts)).wrN (bodyAddr idx) (wordsOfBytes q.body)
    let o : OrderX := { ticket := lo16 ticket, idx := idx, unit := lo16 u, act := q.act, tries := ts, body := q.body,
                        port := q.port, netcfg := q.netcfg, keySend := q.keySend }
    ({ t with afw := { t.afw with
      orders := t.afw.orders ++ [o],
      stats := { t.afw.stats with accepted := t.afw.stats.accepted + 1 } } }).mapResv.acceptOrders q r

/-- An accepted order puts a step off, and STEPPEND stays 1: a step is applied only while no order is without a disposition
(R47, R66). -/
def State.deferStep (s : State) : State :=
  match s.seq.stepFrame with
  | some _ => { s with seq := { s.seq with stepFrame := none } }
  | none => s

/-- What admission answers: the first ticket and every member's tries, or a rejection. -/
structure Admitted where
  ticket : Nat
  tries : List (List Try)
  deriving DecidableEq, Repr

def State.admission (s : State) (q : OrderReq) : Except Rej (Admitted × State) :=
  let n := q.members.length
  if 16384 < s.afw.orders.length + n then .error .tableFull
  else if s.isRelay then .error .wrongMode
  else if q.members = [] then .error (.unknownUnit none)
  else match q.members.findSome? (s.memberFault q) with
    | some r => .error r
    | none =>
      let lead := if q.grp.isSome then 9600 else 1200
      let hend := 9600 * (s.frm + s.seq.cycLen.toNat)
      match s.holdAll q lead hend q.members s.resvs 0 with
      | .error e => .error e
      | .ok (ts, latest) =>
        if 9600 * q.deadline < latest + 9600 then .error (.tooEarly ((latest + 9599) / 9600 + 1))
        else match issueStart s.aon.ticket.toNat (s.afw.orders.map (·.ticket.toNat)) n with
          | none => .error .tableFull
          | some tk =>
            let idx := freeEntries (s.afw.orders.map (·.idx)) n
            let rows := (List.zip q.members ts).zip idx |>.zipIdx |>.map (fun x => (x.1.2, tk + x.2, x.1.1.1, x.1.1.2))
            let nxt := if tk + n > 0xFFFF then 1 else tk + n
            let t0 : State := { s with aon := { s.aon with ticket := lo16 nxt } }
            let t := t0.acceptOrders q rows
            .ok (⟨tk, ts⟩, t.updateWmark.deferStep)

/-! ### Plans that wait (R461) -/

/-- Does a slot differ in what R461 and R66 name: role, class, coding or channel of a D or P slot, or a D lane map? -/
def slotDiffers (a b : Memory) (n : Nat) : Bool :=
  let x := planSlot a n
  let y := planSlot b n
  let dp (w : SlotWord) : Bool := w.role == roleD || w.role == roleP
  let ex := planEntry a n
  let ey := planEntry b n
  (dp x || dp y) &&
    (x.role != y.role || x.cls != y.cls || ex.fec != ey.fec || ex.win != ey.win || ex.bin != ey.bin || ex.en != ey.en ||
      ((x.role == roleD || y.role == roleD) && (List.range 128).any (fun k => planMap a n k != planMap b n k)))

def plansDiffer (a b : Memory) : Bool := (List.range 8).any (slotDiffers a b)

/-- Does a committed plan wait that admission must not run ahead of? Of a plan with wake runs over it the base plan
counts (R461). -/
def State.planWaits (s : State) : Bool :=
  let others := (s.seq.next.map (fun p => s.afw.nextBase.getD p)).toList ++
    (s.seq.pend.map (fun p => p.base.getD p.plan)).toList
  others.any (plansDiffer s.basePlan)

/-- Deadline as a frame number; a UTC time needs the offset (R45, R57). A time before frame 0 has no frame: it is answered
like a missing offset (DESIGN CHOICE, log entry 69). -/
def State.deadlineFrame (s : State) : Deadline → Option Nat
  | .frame f => some f
  | .utc t => match s.afw.utc with
    | none => none
    | some u => if (t : Int) < u then none else some ((t : Int) - u).toNat

end Sys2Proof.Machine
end

