-- ==== Sys2Proof/Machine/Build.lean ====
section
/-! DEFINITION. What the shipped AFW builds into its transmit buffers: beacons, group acknowledgements, orders, bundles
and wake runs (R104 to R107, R117, R118, R120 to R123, R128, R129, R202, R209, R210, R214, R218, R460). -/

namespace Sys2Proof.Machine

open Sys2Proof

/-! ### Which frame, which plan -/

/-- The frame of the next occurrence of slot n whose commit point has not passed. -/
def State.nextFrame (s : State) (n : Nat) : Nat :=
  if n = 0 then (if s.seq.schedTick < 9581 then s.frm + 1 else s.frm + 2)
  else if s.seq.tick < 1200 * n - 19 then s.frm else s.frm + 1

/-- The plan of a frame as AFW knows it. -/
def State.planFor (s : State) (g : Nat) : Memory :=
  if g ≤ s.frm then s.plan
  else match s.seq.pend with
    | some p => if p.validated && decide (s.seq.tick < 9504) then p.plan else s.seq.next.getD s.plan
    | none => s.seq.next.getD s.plan

/-- One frame boundary of the counters in the machine's mode. -/
def State.advance (s : State) (q : Seq) : Seq := if s.isRelay then q.advanceRelay s.upLens else q.advanceFrame

/-- The counters of frame g, which is at most two frames ahead. -/
def State.seqAt (s : State) (g : Nat) : Seq :=
  if g ≤ s.frm then s.seq else if g = s.frm + 1 then s.advance s.seq else s.advance (s.advance s.seq)

/-- Does the base plan that was committed become current at the next frame boundary? -/
def State.comingNext (s : State) : Bool :=
  s.afw.comingLatched ||
    (match s.seq.pend with | some p => p.validated && p.forCmd && decide (s.seq.tick < 9504) | none => false)

/-- The base plan in force in frame g. -/
def State.baseFor (s : State) (g : Nat) : BasePlan :=
  if g ≤ s.frm then s.afw.current else if s.comingNext then s.afw.coming.getD s.afw.current else s.afw.current

/-! ### Beacon pages (R105, R106) -/

def chanBits (c : Chan) : Nat := (if c.win then 256 else 0) + c.bin.toNat
def chanOptBits (c : Option Chan) : Nat := match c with | some x => chanBits x | none => 0

/-- A page as 7 bytes from its 56-bit number. -/
def pageBytes (n : Nat) : List Byte := beBytes 7 n

/-- The PLAN page: roles and classes of slots 2 to 7, Frames per Cycle, Cycles per Rotation. -/
def planPage (b : BasePlan) (q : Seq) : List Byte :=
  let roles := ((b.roles.drop 2).take 6).foldl (fun n r => n * 8 + r) 0
  let cls := ((b.classes.drop 2).take 6).foldl (fun n c => n * 4 + c) 0
  pageBytes (roles * 2 ^ 38 + cls * 2 ^ 26 + q.cycLen.toNat * 2 ^ 14 + q.rotLen.toNat * 2 ^ 4)

/-- The window centres of a frame that has not begun are those written, else those in force. -/
def State.windowsPage (s : State) (b : BasePlan) : List Byte :=
  beBytes 3 s.rxw.cen0.toNat ++ beBytes 3 (if s.isRelay then 0 else s.rxw.cen1.toNat) ++ [BitVec.ofNat 8 ((b.n - 1) % 128)]

/-- The DCHAN page: the channel of each D-slot index; 0 where the plan has no such D slot. -/
def dchanPage (b : BasePlan) : List Byte :=
  let ds := (b.roles.filter (· == roleD)).length
  pageBytes (((List.range 6).foldl (fun n i => n * 512 + (if i < ds then chanOptBits (b.dch[i]?) else 0)) 0) * 4)

/-- The entry k of the uplink channel table. -/
def BasePlan.uctAt (b : BasePlan) (k : Nat) : Option Chan := (b.uct.find? (fun x => x.1 == k)).map (·.2)

def uctPage (b : BasePlan) (i : Nat) : List Byte :=
  let chans := (List.range 5).foldl (fun n k =>
    n * 512 + (if 5 * i + k < b.n then chanOptBits (b.uctAt (5 * i + k)) else 0)) 0
  pageBytes (5 * i * 2 ^ 48 + chans * 8)

def wakePage (b : BasePlan) : List Byte :=
  let cls := b.wclass.getD (b.classes.headD 1)
  match b.wch with
  | none => pageBytes (cls * 1024 * 2 ^ 40)
  | some c => pageBytes ((0x8000 + cls * 1024 + chanBits c) * 2 ^ 40)

def State.stepPage (s : State) : List Byte := beBytes 4 s.seq.step.toNat ++ [0, 0, 0]

/-- The TIME page. An offset that puts frame g before 2000-01-01 has no number in it: 0 is sent (DESIGN CHOICE, log entry
69). -/
def State.timePage (s : State) (g : Nat) : List Byte :=
  match s.afw.utc with
  | none => pageBytes 0
  | some u => beBytes 4 (u + (g : Int)).toNat ++ [0x80, 0, 0]

/-- Does frame g carry the step extension? A relay copies the flag of its upstream beacon, which gave the frame. -/
def State.stepIn (s : State) (g : Nat) : Bool := s.seq.stepFrame == some (BitVec.ofNat 32 g)

def uctPages (b : BasePlan) : List (List Byte) := (List.range ((b.n + 4) / 5)).map (uctPage b)

/-- Do two base plans differ in a beacon page? In Relay mode the PLAN page is copied from upstream. -/
def State.pagesDiffer (s : State) (a b : BasePlan) : Bool :=
  (!s.isRelay && planPage a s.seq != planPage b s.seq) || dchanPage a != dchanPage b || wakePage a != wakePage b ||
    a.n != b.n || uctPages a != uctPages b

/-- Do the lengths in the PLAN page change at the next frame boundary? -/
def State.lensStep (s : State) : Bool :=
  let q := s.advance s.seq
  !s.isRelay && (q.cycLen != s.seq.cycLen || q.rotLen != s.seq.rotLen)

/-- Is an increment of CFGV called for at the boundary to frame g: one that is due, or pages that change there? Before
the first beacon of a firmware start none is: that beacon's increment covers every change made until then (R107; log
entry 34). -/
def State.cfgvWanted (s : State) (g : Nat) : Bool :=
  !s.afw.firstBeacon &&
    ((match s.afw.cfgvDue with | some d => decide (d.toNat ≤ g) | none => false) || s.lensStep ||
      (s.comingNext && s.pagesDiffer s.afw.current (s.afw.coming.getD s.afw.current)))

/-- The first frame in which CFGV may increment again (R107). -/
def State.cfgvRest (s : State) : Nat := match s.aon.cfgvFrame with | some l => l.toNat + 64 | none => 0

/-- Does CFGV increment at the boundary to frame g: at most once in 64 frames (R107)? -/
def State.cfgvSteps (s : State) (g : Nat) : Bool := s.cfgvWanted g && decide (s.cfgvRest ≤ g)

/-- CFGV as frame g carries it: an increment due by then is counted (R107). -/
def State.cfgvAt (s : State) (g : Nat) : BitVec 2 :=
  if s.frm < g ∧ s.cfgvSteps g = true then s.aon.cfgv + 1 else s.aon.cfgv

/-- Page kind and content of frame g (R106, R210). A relay's PLAN page is the copy that its own CFGV stands for (R107),
its own page until it has taken one. -/
def State.page (s : State) (g : Nat) : Nat × List Byte :=
  let b := s.baseFor g
  let m := g % 32
  let own := planPage b (s.seqAt g)
  let planP : Nat × List Byte := match s.relay with
    | some _ =>
      let p := s.afw.planCopy.getD own
      (0, if s.cfgvSteps g && decide (s.frm < g) then (s.afw.upPlan.map (·.1)).getD p else p)
    | none => (0, own)
  if s.stepIn g then (4, match s.relay, s.afw.upStep with | some _, some p => p | _, _ => s.stepPage)
  else match m with
    | 0 => planP
    | 1 => (1, s.windowsPage b)
    | 2 => (2, dchanPage b)
    | 3 => (5, wakePage b)
    | 4 => (6, match s.relay with | some _ => s.afw.upTime.getD (pageBytes 0) | none => s.timePage g)
    | 31 => planP
    | k => if 5 * (k - 5) < b.n then (3, uctPage b (k - 5)) else planP

def State.beaconPayload (s : State) (g : Nat) : List Byte :=
  let q := s.seqAt g
  let pg := s.page g
  beaconCore (s.safeIn g) (s.stepIn g) s.ownDepth pg.1 g q.fic q.cir (s.cfgvAt g) q.rot ++ pg.2

/-! ### Group acknowledgement (R117, R118) -/

/-- Shortest entry form for an address after a previous one. -/
def ackEntry (prev addr padj : Nat) : List Byte :=
  let d := addr - prev
  if 1 ≤ d ∧ d ≤ 31 then [BitVec.ofNat 8 (padj * 32 + d)]
  else if 1 ≤ d ∧ d ≤ 4095 then beBytes 2 (0x8000 + padj * 4096 + d)
  else BitVec.ofNat 8 (0xC0 + padj * 16) :: beBytes 2 addr

/-- Entries that fit `room` bytes and 96 entries, lowest addresses first. -/
def ackEntries : Nat → Nat → List (Nat × Nat) → Nat → List Byte × Nat
  | _, _, [], _ => ([], 0)
  | 0, _, _, _ => ([], 0)
  | k + 1, prev, (a, p) :: r, room =>
    let e := ackEntry prev a p
    if e.length ≤ room then
      let x := ackEntries k a r (room - e.length)
      (e ++ x.1, x.2 + 1)
    else ([], 0)

/-- Insert into an ascending list, one entry per unit. -/
def insertAck (x : Nat × Nat) : List (Nat × Nat) → List (Nat × Nat)
  | [] => [x]
  | y :: r => if x.1 < y.1 then x :: y :: r else if x.1 = y.1 then x :: r else y :: insertAck x r

def State.groupAck (s : State) (g room : Nat) : List Byte :=
  let l := (s.afw.seen.filter (fun x => x.direct && x.frame + 1 == g)).foldl
    (fun l x => insertAck (x.unit.toNat, x.padj.toNat) l) []
  let e := ackEntries 96 0 l (room - 1)
  BitVec.ofNat 8 e.2 :: e.1

/-! ### Orders (R120 to R123) -/

/-- OP of a table entry: ACT and ARG. -/
def opWord (act param : Nat) : Word :=
  place act 13 ||| (if act = 1 ∨ act = 6 then BitVec.ofNat 16 (param % 8192) else 0)

/-- An order entry of a compound packet. -/
structure Entry where
  pos : Nat
  unit : Word
  ticket : Word
  act : Nat
  param : Nat
  deriving DecidableEq, Repr

def Entry.npos (e : Entry) : Nat := actPos e.act

/-- The 6-byte positions of an entry, unsealed. -/
def Entry.bytes (e : Entry) : List Byte :=
  bytesOfWords [e.unit, e.ticket, opWord e.act e.param] ++
    (if e.npos = 2 then [0, 0] ++ beBytes 4 e.param else [])

/-- Put bytes over a payload at an offset. -/
def overlay (l : List Byte) (off : Nat) (b : List Byte) : List Byte := l.take off ++ b ++ l.drop (off + b.length)

/-- The payload of n positions with each entry sealed under its unit's key; an entry without a key stays void. -/
def State.compound (s : State) (nonce : List Byte) (n : Nat) (es : List Entry) : List Byte :=
  es.foldl (fun p e =>
    let k := s.keyBytes e.unit.toNat
    if keyPresent k then sealEntry k nonce e.pos (overlay p (6 * e.pos) e.bytes) else p)
    (List.replicate (6 * n) 0)

/-- A simple order's payload. -/
def simplePayload (ticket : Word) (port : Nat) (body : List Byte) : List Byte :=
  bytesOfWords [ticket] ++ [0x07, BitVec.ofNat 8 port, BitVec.ofNat 8 body.length, 0, 0, 0] ++ body

/-! ### Bundles (R128, R218) -/

def cut6 : Nat → List Byte → List (List Byte)
  | 0, _ => []
  | n + 1, l => if l.isEmpty then [] else (l.take 6 ++ List.replicate (6 - (l.take 6).length) 0) :: cut6 n (l.drop 6)

/-- The positions of an order in a down bundle. -/
def downPositions (unit ticket : Word) (act param port : Nat) (body : List Byte) (toff noff : Nat) : List Byte :=
  let op : Word := if act = 7 then 0xE000 ||| BitVec.ofNat 16 port else opWord act param
  let head := bytesOfWords [unit, ticket, op] ++ [BitVec.ofNat 8 toff,
    BitVec.ofNat 8 ((if actPos act = 2 then 128 else 0) + noff % 128)]
  if act = 7 then
    head ++ (cut6 30 (BitVec.ofNat 8 body.length :: body)).flatMap (fun b => [0, 0] ++ b)
  else if actPos act = 2 then head ++ [0, 0] ++ beBytes 4 param ++ [0, 0]
  else head

/-- A WAKE control position. -/
def wakePosition (w : WakeRun) (g : Nat) : List Byte :=
  bytesOfWords [0xFFFF, 0x1000 ||| w.wcode.setWidth 16] ++ [BitVec.ofNat 8 w.n, 0, BitVec.ofNat 8 (w.frame - g),
    BitVec.ofNat 8 (w.noff * 8 + w.first)]

/-! ### Up bundle (R129, R217) -/

def outcomeCode : TryOutcome → Nat
  | .acked => 0 | .silent => 1 | .blocked => 2 | .synlate => 3 | .gated => 4 | .unsent => 5 | .lost => 5

def RelayResult.bytes (r : RelayResult) : List Byte :=
  bytesOfWords [r.ticket] ++ [BitVec.ofNat 8 (outcomeCode r.outcome * 32), r.ack]

/-- Does an up window at abs slot k come at least 1,200 Ticks after the end of a result's instance? -/
def RelayResult.ready (r : RelayResult) (k : Nat) : Bool := decide (8 * r.frame + r.slot + 2 ≤ k)

/-- The duty entries of the bundle of frame g (R129): those that have waited, the machine's own of the frame before, and those
of the last bundle from the relay below. -/
def State.dutyEntries (s : State) (g : Nat) : List (List Byte) :=
  s.afw.dutyLeft ++ (List.range (regionN (s.region.getD []))).filterMap (fun j =>
    let t := s.gate.charged j ((g : Int) - 1) ((g : Int) - 1)
    if t = 0 then none else some (BitVec.ofNat 8 j :: beBytes 2 t)) ++
  s.afw.relayDuty.map (fun d => BitVec.ofNat 8 (128 + d.range) :: beBytes 2 d.ticks)

/-- As many lists as fit in `room` bytes and `n` entries. -/
def takeFit : Nat → Nat → List (List Byte) → List (List Byte)
  | _, _, [] => []
  | 0, _, _ => []
  | n + 1, room, x :: r => if x.length ≤ room then x :: takeFit n (room - x.length) r else []

def FwdReport.bytes (r : FwdReport) (g : Nat) : List Byte :=
  bytesOfWords [r.unit] ++ [BitVec.ofNat 8 (g - r.frame), BitVec.ofNat 8 r.payload.length] ++ r.payload

/-- An up bundle: its payload, the results and reports it carries, the duty entries left for a later one, and the duty
figures of the relay below that have become entries of it. -/
structure UpBundle where
  bytes : List Byte
  results : List RelayResult
  reports : List FwdReport
  left : List (List Byte)
  below : List RelayDuty
  deriving DecidableEq, Repr

/-- The up bundle of frame g, slot n. -/
def State.upBundle (s : State) (g n room cap : Nat) : UpBundle :=
  let k := 8 * g + n
  let res := (s.afw.relayResults.filter (fun r => r.ready k)).take cap
  let rb := res.map RelayResult.bytes
  let room1 := room - 1 - 4 * res.length
  let du := takeFit 15 room1 (s.dutyEntries g)
  let room2 := room1 - 3 * du.length
  let live := s.afw.fwdReports.filter (fun r => decide (g < r.frame + 255))
  let rp := takeFit live.length room2 (live.map (fun r => r.bytes g))
  ⟨BitVec.ofNat 8 (res.length * 16 + du.length) :: (rb ++ du ++ rp).flatten, res, live.take rp.length,
    (s.dutyEntries g).drop du.length, s.afw.relayDuty⟩

/-! ### Packets of a slot -/

/-- What a slot of a frame is to send: the packet, the number of positions, and the tickets placed in it. -/
structure Packet where
  bytes : List Byte
  npos : Nat
  tickets : List Word
  /-- Of a down bundle: the tickets in order, with their positions. -/
  places : List (Word × Nat) := []
  /-- Of an up bundle: what it carries, and the duty entries that it leaves (R129). -/
  up : Option UpBundle := none
  deriving DecidableEq, Repr

/-- A relay transmits in its state (R211): nothing in SEARCH, in ORPHAN only beacons and up bundles. -/
def State.mayBuild (s : State) (role : Nat) (up : Bool) : Bool :=
  match s.relay with
  | none => true
  | some _ =>
    if s.seq.rstate.toNat ≤ 1 then false
    else if s.seq.orphan then role == roleB || up
    else s.afw.upPlan.isSome || s.seq.rstate == 3

/-- A packet under the broadcast key. -/
def State.broadcast (s : State) (type g n hop : Nat) (payload : List Byte) : Option (List Byte) :=
  if keyPresent s.bkey then some (sealBroadcast s type n hop g payload) else none

/-- A packet under a unit's key. -/
def State.unicast (s : State) (type g n : Nat) (dst keyOf : Word) (payload : List Byte) : Option (List Byte) :=
  let key := s.keyBytes keyOf.toNat
  if keyPresent key then
    some (sealPacket key (nonceBytes type s.district s.ownAddr dst g n 0 0 0)
      (headerCore type false payload.length dst s.ownAddr (lo16 g)) payload)
  else none

/-- The coordinator's orders of an instance. -/
def State.instOrders (s : State) (g n : Nat) : List (OrderX × Try) :=
  s.afw.orders.flatMap (fun o => (o.tries.filter (fun t => t.txr == 0 && t.frame == g && t.slot == n)).map (fun t => (o, t)))

def State.ordParam (s : State) (o : OrderX) : Nat := s.rd32 (ordAddr o.idx + 4)

def State.entryOf (s : State) (x : OrderX × Try) : Entry :=
  ⟨x.2.pos.getD 0, x.1.unit, x.1.ticket, x.1.act, s.ordParam x.1⟩

/-- The body of an OPAQUE order: a KEY SEND order carries the other broadcast key (R330). -/
def State.bodyOf (s : State) (o : OrderX) : List Byte :=
  if o.keySend then s.keyBytes (bslotEntry (!s.aon.bslot)) else o.body

/-- A compound packet of entries with at least n0 positions. -/
def State.compoundPacket (s : State) (g n n0 : Nat) (es : List Entry) : Option Packet :=
  let np := es.foldl (fun m e => max m (e.pos + e.npos)) n0
  if np = 0 ∨ keyPresent s.bkey = false then none
  else
    let nonce := nonceBytes 5 s.district s.ownAddr 0xFFFF g n 0 0 0
    let p := s.compound nonce np es
    some { bytes := sealBroadcast s 5 n 0 g p, npos := np,
           tickets := (es.filter (fun e => s.hasKey e.unit.toNat)).map (·.ticket) }

/-- The D slot packet of the coordinator. -/
def State.packetD (s : State) (g n n0 : Nat) : Option Packet :=
  let l := s.instOrders g n
  match l.find? (fun x => x.1.act == 7) with
  | some x =>
    let body := s.bodyOf x.1
    if x.1.keySend ∧ keyPresent body = false then none
    else (s.unicast 4 g n x.1.unit x.1.unit (simplePayload x.1.ticket x.1.port body)).map
      (fun b => { bytes := b, npos := 0, tickets := [x.1.ticket] })
  | none => if l.isEmpty ∧ n0 = 0 then none else s.compoundPacket g n n0 (l.map s.entryOf)

/-- The D slot packet of a relay, from the entries it holds. -/
def State.packetDRelay (s : State) (g n : Nat) : Option Packet :=
  let l := s.afw.relayEntries.filter (fun e => e.frame == g && e.slot == n && e.result.isNone && !e.sent)
  match l.find? (fun e => field e.op 15 13 == 7) with
  | some e =>
    (s.unicast 4 g n e.unit e.unit (simplePayload e.ticket (field e.op 7 0) e.body)).map (fun b => { bytes := b, npos := 0, tickets := [e.ticket] })
  | none =>
    if l.isEmpty then none
    else s.compoundPacket g n 0 (l.map (fun e => ⟨e.pos.getD 0, e.unit, e.ticket, field e.op 15 13,
      if field e.op 15 13 = 2 ∨ field e.op 15 13 = 3 then e.param.toNat else field e.op 12 0⟩))

/-- The tries whose first exchange is this one. -/
def State.downTries (s : State) (g n relay : Nat) : List (OrderX × Try) :=
  s.afw.orders.flatMap (fun o => (o.tries.filter (fun t =>
    match t.down.head? with
    | some h => h.frame == g && h.slot == n && h.relay.toNat == relay
    | none => false)).map (fun t => (o, t)))

/-- Positions of an order entry with the offsets of its exchange. -/
def State.downEntry (s : State) (g : Nat) (x : OrderX × Try) : List Byte :=
  let noff := match x.2.down with | _ :: h :: _ => h.frame - g | _ => 0
  downPositions x.1.unit x.1.ticket x.1.act (s.ordParam x.1) x.1.port (s.bodyOf x.1) (x.2.frame - g) noff

/-- Order positions of a bundle: entries placed before keep their place, a cancelled one leaves void positions (R74),
new entries follow. -/
def State.downOrders (s : State) (g : Nat) (old : List (Word × Nat)) (l : List (OrderX × Try)) :
    List Byte × List (Word × Nat) :=
  let kept := old.flatMap (fun p => match l.find? (fun x => x.1.ticket == p.1) with
    | some x => s.downEntry g x
    | none => List.replicate (8 * p.2) 0)
  let fresh := l.filter (fun x => !old.any (fun p => p.1 == x.1.ticket))
  (kept ++ fresh.flatMap (s.downEntry g), old ++ fresh.map (fun x => (x.1.ticket, (s.downEntry g x).length / 8)))

/-- The coordinator's down bundle to a relay: positions and tickets. -/
def State.downBundle (s : State) (g n relay : Nat) : List Byte × List (Word × Nat) × List Word :=
  let l := s.downTries g n relay
  let old := match s.afw.built.find? (fun b => b.slot == n && b.frame == g) with | some b => b.places | none => []
  let o := s.downOrders g old l
  let ws := (s.afw.wakes.filter (fun w => w.bundle == g && s.wakeIn g n relay w)).flatMap (fun w => wakePosition w g)
  (o.1 ++ ws, o.2, l.map (fun x => x.1.ticket))

/-- The relay that the machine's own P exchange serves as upstream end. Below a relay lie those of its node records with
KIND = 4 that name it, or no relay, in RELAY1 (R209; log entry 30). -/
def State.ownServed (s : State) (g : Nat) : Option Nat :=
  match s.relay with
  | none => s.servedRelay 0 g
  | some r =>
    let l := s.nodes.filter (fun u => s.nodeKind u == 4 && (s.relay1 u == 0 || s.relay1 u == r.addr.toNat))
    if l.isEmpty then none else l[(g / 2) % l.length]?

/-- Is the exchange of frame g this relay's turn (R209)? -/
def State.ownTurn (_s : State) (r : RelayCfg) (w : SlotWord) (g : Nat) : Bool :=
  let q := if w.peven = 2 ∧ w.podd = 2 then g else g / 2
  q % (max 1 r.pcount) == r.pidx

/-- The first P slot of frame g in which the machine is the upstream end: its onward exchange (R128). -/
def State.firstP (s : State) (g : Nat) : Option Nat :=
  let p := s.planFor g
  (slotsOf p roleP).find? (fun n => pSide (planSlot p n) g == 1 && !(n == 7 && (s.seqAt g).fic == 0))

/-- The P slot packet. -/
def State.packetP (s : State) (g n : Nat) (w : SlotWord) (e : TxEntry) : Option Packet :=
  if pSide w g = 1 then
    match s.ownServed g with
    | none => none
    | some r =>
      match s.relay with
      | none =>
        let b := s.downBundle g n r
        (s.unicast 6 g n (lo16 r) (lo16 r) b.1).map (fun x =>
          { bytes := x, npos := b.1.length / 8, tickets := b.2.2, places := b.2.1 })
      | some _ =>
        let f := if s.firstP g == some n then (s.afw.forwards.filter (fun x => x.frame == g)).flatMap (·.bytes) else []
        (s.unicast 6 g n (lo16 r) (lo16 r) f).map (fun x => { bytes := x, npos := f.length / 8, tickets := [] })
  else if pSide w g = 2 then
    match s.relay with
    | none => none
    | some r =>
      if s.ownTurn r w g then
        let u := s.upBundle g n (maxLen roleP w.cls e.fec) (packetCap w.cls e.fec)
        (s.unicast 7 g n r.upstream r.addr u.bytes).map (fun x =>
          { bytes := x, npos := 0, tickets := u.results.map (·.ticket), up := some u })
      else none
  else none

/-- Positions of a packet built before for the slot: a void keeps its place (R74). -/
def State.builtPos (s : State) (g n : Nat) : Nat :=
  match s.afw.built.find? (fun b => b.slot == n && b.frame == g) with
  | some b => b.npos
  | none => 0

/-- The packet of slot n in frame g, if the slot is to send one. -/
def State.packetOf (s : State) (g n : Nat) : Option Packet :=
  let p := s.planFor g
  let w := planSlot p n
  let e := planEntry p n
  let c := n == 7 && (s.seqAt g).fic == 0
  if !e.en || c || !s.mayBuild w.role (pSide w g == 2) then none
  else if w.role = roleB then (s.broadcast 1 g n w.hopwin (s.beaconPayload g)).map (fun b => { bytes := b, npos := 0, tickets := [] })
  else if w.role = roleK then
    (if s.safeIn g then none
     else (s.broadcast 2 g n w.hopwin (s.groupAck g (maxLen roleK w.cls e.fec))).map (fun b => { bytes := b, npos := 0, tickets := [] }))
  else if w.role = roleD then
    (match s.relay with
     | none => s.packetD g n (s.builtPos g n)
     | some _ => s.packetDRelay g n)
  else if w.role = roleP then s.packetP g n w e
  else none

/-! ### Buffers and arming -/

/-- Does the coordinator lack a key for the try (R67)? -/
def State.lacksKey (s : State) (o : OrderX) (t : Try) : Bool :=
  match t.down.head? with
  | some h => !s.hasKey h.relay.toNat
  | none => !s.hasKey o.unit.toNat || (o.act != 7 && !keyPresent s.bkey) ||
      (o.keySend && !s.hasKey (bslotEntry (!s.aon.bslot)))

/-- The slot of the coordinator's own transmission that carries a try: its instance, or its first exchange (R59). -/
def Try.carrier (t : Try) : Nat × Nat :=
  match t.down.head? with
  | some h => (h.frame, h.slot)
  | none => (t.frame, t.slot)

/-- Mark the tries that the packet of a slot carries, and those that it leaves void for want of a key. -/
def markPlaced (x : Nat × Nat) (tickets : List Word) (lack : OrderX → Try → Bool) (o : OrderX) : OrderX :=
  { o with tries := o.tries.map (fun t =>
      if t.carrier = x then { t with placed := tickets.contains o.ticket, noKey := lack o t } else t) }

/-- The wake run that starts in slot n of frame g. -/
def State.wakeAt (s : State) (g n : Nat) : Option WakeRun :=
  s.afw.wakes.find? (fun w => w.frame == g && w.first == n && w.via == s.ownAddr)

/-- Take a CFGV increment as due when the first beacon after a start is built (R107). -/
def State.firstBeaconDue (s : State) (g : Nat) : State :=
  if s.afw.firstBeacon then
    { s with afw := { s.afw with firstBeacon := false, cfgvDue := some (BitVec.ofNat 32 (max g s.cfgvRest)) } }
  else s

/-- A packet as it stands in the buffer of slot n for frame g; `left` are the duty entries that wait when it carries none. -/
def Packet.stands (k : Packet) (g n : Nat) (left : List (List Byte)) : Built :=
  let u := k.up.getD ⟨[], [], [], left, []⟩
  { slot := n, frame := g, npos := k.npos, places := k.places, tickets := k.tickets, results := u.results,
    reports := u.reports, left := u.left, below := u.below }

/-- Build the buffer of slot n for its next occurrence and arm the slot; a slot that sends nothing is not armed. -/
def State.buildSlot (s : State) (n : Nat) : State :=
  let g := s.nextFrame n
  let p := s.planFor g
  let e := planEntry p n
  let s := if n = 0 ∧ e.en = true ∧ s.mayBuild roleB false = true ∧ keyPresent s.bkey = true then s.firstBeaconDue g else s
  let clear (s : State) : State := { s with afw := { s.afw with built := s.afw.built.filter (fun b => b.slot != n) } }
  if (planSlot p n).role = roleW then
    match s.wakeAt g n with
    | some w =>
      if e.en && s.mayBuild roleW false then
        ((clear s).wrN e.buf [2, w.wcode.setWidth 16]).armSet ((1 : Word) <<< n)
      else s.armClr ((1 : Word) <<< n)
    | none => s.armClr ((1 : Word) <<< n)
  else match s.packetOf g n with
    | none =>
      let t := (clear s).armClr ((1 : Word) <<< n)
      { t with afw := { t.afw with orders := t.afw.orders.map (markPlaced (g, n) [] s.lacksKey) } }
    | some k =>
      let t := (clear s).wrN e.buf (BitVec.ofNat 16 k.bytes.length :: wordsOfBytes k.bytes)
      let t := { t with afw := { t.afw with
        built := t.afw.built ++ [k.stands g n t.afw.dutyLeft],
        orders := t.afw.orders.map (markPlaced (g, n) k.tickets s.lacksKey) } }
      t.armSet ((1 : Word) <<< n)

/-- Rebuild a slot if its packet for the next occurrence stands already (R460). -/
def State.refresh (s : State) (n : Nat) : State :=
  if s.afw.built.any (fun b => b.slot == n && b.frame == s.nextFrame n) then s.buildSlot n else s

end Sys2Proof.Machine
end

