-- ==== Sys2Proof/Machine/Delivery.lean ====
section
/-! DEFINITION. Tries and dispositions: commit effects, outcomes, reports, cancelling and aborting
(R52, R67 to R78, R197 to R201, R217, R320, R460, R461). -/

namespace Sys2Proof.Machine

open Sys2Proof

/-! ### Slots of an order's tries -/

/-- Tick of the commit point of slot n of frame g, counted from frame 0. -/
def commitAt (g n : Nat) : Nat := 9600 * g + 1200 * n - 19

/-- Rebuild the packet that stands for a slot of a frame, if its commit point is 24 Ticks away or more (R460). -/
def State.refreshAt (s : State) (x : Nat × Nat) : State :=
  if x.1 == s.nextFrame x.2 && decide (s.now + 24 ≤ commitAt x.1 x.2) then s.refresh x.2 else s

/-- Disarm a slot whose packet stands and is too near its commit point to be built again; the entries in it end UNSENT
(R74). -/
def State.withdraw (s : State) (x : Nat × Nat) : State :=
  if s.afw.built.any (fun b => b.frame == x.1 && b.slot == x.2) && decide (s.now < commitAt x.1 x.2) &&
     decide (commitAt x.1 x.2 < s.now + 24) then
    let t := s.armClr ((1 : Word) <<< x.2)
    { t with afw := { t.afw with
        orders := t.afw.orders.map (markPlaced x [] (fun _ _ => false)),
        built := t.afw.built.filter (fun b => !(b.frame == x.1 && b.slot == x.2)) } }
  else s

/-- Take what is no longer held out of a packet that stands: built again while there is time, withdrawn after that (R74,
R77). -/
def State.redo (s : State) (x : Nat × Nat) : State := (s.refreshAt x).withdraw x

/-- Without a current broadcast key nothing that needs it is sent (R202): the packets that stand sealed under it, B, K and
compound D, are taken out, and their tries end UNSENT. -/
def State.noBkey (s : State) : State :=
  if keyPresent s.bkey then s
  else
    let under (b : Built) : Bool := (Header.ofBytes (s.packetBytes (planEntry (s.planFor b.frame) b.slot).buf 10)).key
    (s.afw.built.filter under).foldl (fun (t : State) b => t.redo (b.frame, b.slot)) s

/-- BKEY_SWITCH. -/
def execBkeySwitch (c : CoreId) (s : State) : Out :=
  if s.calling c 0x15 then .next (s.bkeySwitch.noBkey.fast c 0x00 []) else .next s

/-- KEY_DELETE. -/
def execKeyDelete (c : CoreId) (s : State) : Out :=
  if s.calling c 0x21 then s.serve c [keySpan (s.arg c 1).toNat] (fun s => .next ((s.keyDelete (s.arg c 1).toNat).noBkey.fast c 0x00 [])) else .next s

/-- A relay's up bundles that stand are built again with what has come (R129, R217, R460). -/
def State.refreshUp (s : State) : State :=
  if s.isRelay then
    (List.range 8).foldl (fun (t : State) n =>
      let g := t.nextFrame n
      let w := planSlot (t.planFor g) n
      if w.role == roleP && pSide w g == 2 then t.refreshAt (g, n) else t) s
  else s

/-- Take an order's entries out of the packets that stand. -/
def State.refreshOrder (s : State) (o : OrderX) : State :=
  (o.tries.map Try.carrier).foldl (fun (t : State) x => t.refreshAt x) s

/-- Build the slots whose next occurrence has a try of the order (R460), and the beacon that announced a step which the
order has put off (R47). -/
def State.placeOrder (s : State) (o : OrderX) : State :=
  (o.tries.map Try.carrier).foldl (fun (t : State) x => if x.1 == t.nextFrame x.2 then t.buildSlot x.2 else t)
    (s.refreshAt (s.nextFrame 0, 0))

/-- The order of a ticket. -/
def State.orderOf (s : State) (ticket : Word) : Option OrderX := s.afw.orders.find? (fun o => o.ticket == ticket)

def State.setOrder (s : State) (o : OrderX) : State :=
  { s with afw := { s.afw with orders := s.afw.orders.map (fun x => if x.ticket = o.ticket then o else x) } }

/-! ### Outcomes (R67) -/

/-- A try's outcome once its outcome point has passed. -/
def Try.final (t : Try) : TryOutcome :=
  match t.result with
  | some r => r
  | none => if t.sent then (if t.down.isEmpty then .silent else .lost) else .unsent

/-- How many counted tries ended so. -/
def OrderX.count (o : OrderX) (r : TryOutcome) : Nat := ((o.tries.take o.next).filter (fun t => t.result == some r)).length

/-- Tries that went on air: a LOST try of a relayed order is not counted, since R201 does not say whether the relay sent it
(DESIGN CHOICE, log entry 68). -/
def OrderX.onAir (o : OrderX) : Nat := o.count .acked + o.count .silent

/-- The counts and NEXT of the table entry (R201). -/
def State.writeCounts (s : State) (o : OrderX) : State :=
  s.wrPair (ordAddr o.idx + 12)
    (place o.onAir 12 ||| place (o.count .silent) 8 ||| place (o.count .blocked) 4 ||| place (o.count .synlate) 0)
    (place (o.count .gated) 12 ||| place (o.count .lost) 8 ||| place o.next 4 ||| place (o.count .unsent) 0)

/-- Count the outcomes of the tries before index k; an UNSENT for lack of a key when its packet was built is logged (R462). -/
def State.settleTries (s : State) (o : OrderX) (k : Nat) : OrderX × State :=
  let fin (x : Try × Nat) : Try := if o.next ≤ x.2 ∧ x.2 < k then { x.1 with result := some x.1.final } else x.1
  let o' : OrderX := { o with tries := o.tries.zipIdx.map fin, next := max o.next k }
  let new := (o.tries.take k).drop o.next
  let t := (s.setOrder o').writeCounts o'
  (o', (new.filter (fun x => x.final == .unsent && x.noKey)).foldl (fun (t : State) _ =>
    t.logEvent "NOKEY" (kvH "ticket" 4 o.ticket.toNat ++ kvH "unit" 4 o.unit.toNat)) t)

/-! ### Dispositions (R69, R70, R72, R198, R199, R201, R337) -/

inductive Disp where
  | done | noack | blocked | cancelled | aborted
  deriving DecidableEq, Repr

def Disp.code : Disp → Nat
  | .done => 0 | .noack => 1 | .blocked => 2 | .cancelled => 3 | .aborted => 4

def Disp.text : Disp → String
  | .done => "DONE" | .noack => "NOACK" | .blocked => "BLOCKED" | .cancelled => "CANCELLED" | .aborted => "ABORTED"

def dispText (n : Nat) : String :=
  if n = 0 then "DONE" else if n = 1 then "NOACK" else if n = 2 then "BLOCKED" else if n = 3 then "CANCELLED" else "ABORTED"

/-- Result and code of an ack byte. -/
def resultPairs (ack : Byte) : String :=
  if ack.getLsbD 7 then kv "result" "REFUSED" ++ kvH "code" 2 (ack.toNat % 128) else kv "result" "APPLIED"

/-- Word i of an order's table entry. -/
def State.ordW (s : State) (o : OrderX) (i : Nat) : Word := s.rd (ordAddr o.idx + i)

def dispPairs (s : State) (o : OrderX) (d : Disp) (ack : Byte) : String :=
  let w2 := s.ordW o 2
  kvH "ticket" 4 o.ticket.toNat ++ kvH "unit" 4 o.unit.toNat ++
    (if bit w2 11 then kvN "grp" (field (s.ordW o 3) 11 0) else "") ++ kv "disp" d.text ++
    (if d = .done then resultPairs ack else "") ++ kv "origin" (if bit w2 12 then "engine" else "host") ++
    kvN "frame" s.frm ++ kvN "tx" o.onAir ++ kvN "acked" (o.count .acked) ++ kvN "silent" (o.count .silent) ++
    kvN "blocked" (o.count .blocked) ++ kvN "synlate" (o.count .synlate) ++ kvN "gated" (o.count .gated) ++
    kvN "lost" (o.count .lost) ++ kvN "unsent" (o.count .unsent)

def histAddr (k : Nat) : Nat := 0x380000 + 8 * (k % 4096)

/-- Write the history entry (R201). -/
def State.writeHistory (s : State) (o : OrderX) (d : Disp) : State :=
  let t := s.wrN (histAddr s.afw.histNext) ([s.ordW o 0, s.ordW o 1, s.ordW o 2, s.ordW o 3, lo16 s.frm, hi16 s.frm,
    place d.code 13, 0])
  { t with afw := { t.afw with histNext := t.afw.histNext + 1 } }

/-- The history entry of a ticket among the last 4,096 dispositions, the newest first (R73). -/
def State.history (s : State) (ticket : Word) : Option Nat :=
  ((List.range (min 4096 s.afw.histNext)).find? (fun i => s.rd (histAddr (s.afw.histNext - 1 - i)) == ticket)).map
    (fun i => histAddr (s.afw.histNext - 1 - i))

/-- What a disposition of an engine order changes in the ledger record (R198). -/
def State.engineEffect (s : State) (u flow : Nat) (d : Disp) (refused : Bool) : State :=
  let t := s.setLedFlag u 13 false
  match d with
  | .done => if refused then t else (t.setTarget u flow).setLedFlag u 12 true
  | .noack => t.setLedFlag u 12 false
  | .aborted => t.setLedFlag u 12 false
  | .blocked => t
  | .cancelled => t

/-- A host order that ends DONE, APPLIED holds an active outlet (R199). -/
def State.hostHold (s : State) (u act param : Nat) : State :=
  if 1 ≤ act ∧ act ≤ 5 ∧ s.nodeKind u = 0 ∧ s.ledFlag u 15 = true then
    let last := s.rd32 (nodeAddr u + 16)
    let q := if act = 2 then param else if act = 5 then 0 else if last = 0xFFFFFF then 0 else last
    (s.setLedFlag u 14 true).setTarget u q
  else s

/-- Install the node record words of a NETCFG order: words 0 to 5 and 11; KIND, LOST and SAFECLOSE stay (R111, R186,
R315). -/
def State.installNetcfg (s : State) (u : Nat) (ws : List Word) : State :=
  let w0 := (ws.getD 0 0 &&& 0x8AFF) ||| (s.nodeW u 0 &&& 0x7500)
  (s.wrN (nodeAddr u) (w0 :: (ws.drop 1).take 5)).setNodeW u 11 (ws.getD 6 0)

/-- The effects of a disposition on the records. -/
def State.dispEffects (s : State) (o : OrderX) (d : Disp) (ack : Byte) : State :=
  let u := o.unit.toNat
  let refused := ack.getLsbD 7
  if bit (s.ordW o 2) 12 then s.engineEffect u (if o.act = 2 then s.ordParam o else 0) d refused
  else if d = .done ∧ refused = false then
    (match o.netcfg with
     | some ws => s.installNetcfg u ws
     | none => s.hostHold u o.act (s.ordParam o))
  else s

def Stats.add (x : Stats) (d : Disp) : Stats :=
  match d with
  | .done => { x with done := x.done + 1 }
  | .noack => { x with noack := x.noack + 1 }
  | .blocked => { x with blocked := x.blocked + 1 }
  | .cancelled => { x with cancelled := x.cancelled + 1 }
  | .aborted => { x with aborted := x.aborted + 1 }

/-- On-air Ticks more in a frame of a relay's duty model (R61). -/
def Afw.addDuty (a : Afw) (relay : Word) (range frame ticks : Nat) : Afw :=
  let here (x : RelayDuty) : Bool := x.relay == relay && x.range == range && x.frame == frame
  if a.relayDuty.any here then
    { a with relayDuty := a.relayDuty.map (fun x => if here x then { x with ticks := x.ticks + ticks } else x) }
  else { a with relayDuty := a.relayDuty ++ [RelayDuty.mk relay range frame ticks] }

/-- A relayed try of the current frame that has taken place keeps its charge when its order is released (R61, R64),
unless another order still holds the instance. -/
def State.keepCharge (s : State) (o : OrderX) (t : Try) : State :=
  let others := (s.afw.orders.filter (fun x => x.ticket != o.ticket)).any (fun x => x.tries.any (fun y =>
    y.txr == t.txr && y.frame == t.frame && y.slot == t.slot))
  match s.txRange t.txr.toNat t.frame t.slot with
  | some j =>
    if t.txr != 0 && t.frame == s.frm && decide (commitAt t.frame t.slot ≤ s.now) && !others then
      { s with afw := s.afw.addDuty t.txr j t.frame (orderWindow (s.slotCls t.slot)) }
    else s
  | none => s

/-- Tries of an order that are on air while it is disposed: an ack may still come (R72). -/
def State.lateTries (s : State) (o : OrderX) : List LateTry :=
  (o.tries.filter (fun t => t.down.isEmpty && t.sent && t.result.isNone && decide (s.now < t.outcomeAt))).map
    (fun t => ⟨o.ticket, o.unit, t.frame, t.slot, t.pos.getD 0⟩)

/-- Free an order's entry and release its reservations (R64). -/
def State.releaseOrder (s : State) (o : OrderX) (d : Disp) : State :=
  let t := o.tries.foldl (fun (t : State) x => t.keepCharge o x) (s.wr (ordAddr o.idx) 0).mapResv
  { t with afw := { t.afw with orders := t.afw.orders.filter (fun x => x.ticket != o.ticket),
                               late := t.afw.late ++ s.lateTries o, stats := t.afw.stats.add d } }

/-- Dispose an order whose outcomes are counted; `line` says whether its own !DISP is sent. -/
def State.disposeWith (s : State) (line : Bool) (o : OrderX) (d : Disp) (ack : Byte) : State :=
  let t := if d = .done then
      (s.wr (ordAddr o.idx + 2) (setField (setBit (s.ordW o 2) 7 true) 6 0 (ack.toNat % 128))).wr (ordAddr o.idx + 3)
        (setBit (s.ordW o 3) 15 (ack.getLsbD 7))
    else s
  let t := if line then t.event .disp "" (dispPairs t o d ack) else t
  let t := (t.writeHistory o d).dispEffects o d ack
  (((t.releaseOrder o d).updateWmark).refreshOrder o).readyStep

def State.dispose (s : State) (o : OrderX) (d : Disp) (ack : Byte) : State := s.disposeWith true o d ack

/-- Dispose an order before its last outcome point and take it out of the packets that stand (R74, R77). -/
def State.withdrawOrder (s : State) (line : Bool) (o : OrderX) (d : Disp) : State :=
  ((o.tries.filter (·.placed)).map Try.carrier).foldl (fun (t : State) x => t.withdraw x) (s.disposeWith line o d 0)

/-- The aggregate line of a forced command (R76): history per ticket, one event. -/
def State.abortAll (s : State) : State :=
  if s.afw.orders.isEmpty then s
  else
    let t := s.event .disp "" (kv "ticket" "*" ++ kv "disp" "ABORTED" ++ kvN "boot" s.aon.boot.toNat)
    t.afw.orders.foldl (fun (t : State) o => t.withdrawOrder false o .aborted) t

/-- The try k of an order is ACKED: DONE (R69). -/
def State.acked (s : State) (o : OrderX) (k : Nat) (ack : Byte) : State :=
  let r := s.settleTries o k
  let put (x : Try × Nat) : Try := if x.2 = k then { x.1 with result := some .acked, sent := true } else x.1
  let o' : OrderX := { r.1 with tries := r.1.tries.zipIdx.map put, next := k + 1 }
  ((r.2.setOrder o').writeCounts o').dispose o' .done ack

/-- The outcome points that have passed: counts, and the disposition after the last try. -/
def State.passOutcomes (s : State) (o : OrderX) : State :=
  let k := (o.tries.filter (fun t => decide (t.outcomeAt ≤ s.now))).length
  if k ≤ o.next then s
  else
    let r := s.settleTries o k
    if r.1.tries.length ≤ k then
      r.2.dispose r.1 (if r.1.count .blocked = r.1.tries.length then .blocked else .noack) 0
    else r.2

/-! ### Relay results (R68, R217) -/

/-- Results stand in the order in which their instances ended. -/
def insertResult (x : RelayResult) : List RelayResult → List RelayResult
  | [] => [x]
  | y :: r => if 8 * x.frame + x.slot < 8 * y.frame + y.slot then x :: y :: r else y :: insertResult x r

def State.relayResult (s : State) (ticket : Word) (o : TryOutcome) (ack : Byte) (f n : Nat) : State :=
  { s with afw := { s.afw with relayResults := insertResult ⟨ticket, o, ack, f, n⟩ s.afw.relayResults } }

/-- A held entry ends with an outcome: its result goes into the up windows. An ACKED ticket is kept, and a later entry of
it that is still held is not transmitted: its result is ACKED as well (R68). -/
def State.relayOutcome (s : State) (e : RelayEntry) (o : TryOutcome) (ack : Byte) : State :=
  let same (x : RelayEntry) : Bool := x.ticket == e.ticket && x.frame == e.frame && x.slot == e.slot
  let more := if o = .acked then
      s.afw.relayEntries.filter (fun x => x.ticket == e.ticket && !same x && !x.sent && x.result.isNone)
    else []
  let t := more.foldl (fun (t : State) x => t.relayResult x.ticket .acked ack x.frame x.slot)
    (s.relayResult e.ticket o ack e.frame e.slot)
  let t := { t with afw := { t.afw with
      relayEntries := t.afw.relayEntries.filter (fun x => !same x && !more.contains x),
      ackedTickets := if o = .acked then t.afw.ackedTickets ++ [(e.ticket, ack, t.afw.cycleNo)]
        else t.afw.ackedTickets } }
  (more.foldl (fun (t : State) x => t.redo (x.frame, x.slot)) t).refreshUp

/-- TRY_OUTCOME_POINT (R67, R69, R71, R217). -/
def execTryOutcomePoint (ticket : Word) (s : State) : Out :=
  if !s.afw.ready || s.safe.on then .next s
  else match s.relay with
    | none => match s.orderOf ticket with
      | some o => .next (s.passOutcomes o)
      | none => .next s
    | some _ =>
      match s.afw.relayEntries.find? (fun e => e.ticket == ticket && decide (9600 * e.frame + 1200 * (e.slot + 1) ≤ s.now)) with
      | some e => .next (s.relayOutcome e (match e.result with
          | some r => r
          | none => if e.sent then .silent else .unsent) 0)
      | none => .next s

/-! ### The commit point (R21, R67) -/

def TxOutcome.asTry : TxOutcome → TryOutcome
  | .synlate => .synlate | .gated => .gated | .blocked => .blocked | _ => .unsent

/-- What a decision does to a try that the slot's packet carries. -/
def Decision.onTry (d : Decision) (t : Try) : Try :=
  if t.placed && t.result.isNone && !t.sent then
    match d with
    | .committed => { t with sent := true }
    | .failed o => { t with result := some o.asTry }
    | .silent => t
  else t

def Decision.onEntry (d : Decision) (e : RelayEntry) : RelayEntry :=
  match d with
  | .committed => { e with sent := true }
  | .failed o => { e with result := some o.asTry }
  | .silent => e

/-- AFW's side of a commit point: the tries and held entries that the packet carries learn their decision; what a
committed bundle carried is done with; the packet no longer stands. -/
def State.commitNote (s : State) (d : Decision) (g n : Nat) : State :=
  let a := s.afw
  let here (b : Built) : Bool := b.slot == n && b.frame == g
  let held := a.built.filter here
  let sent := d == .committed && !held.isEmpty && s.isRelay
  let w := planSlot (s.planFor g) n
  let p := sent && w.role == roleP
  { s with afw := { a with
      orders := a.orders.map (fun o => { o with tries := o.tries.map (fun t =>
        if t.carrier = (g, n) then d.onTry t else t) }),
      relayEntries := a.relayEntries.map (fun x =>
        if x.frame = g ∧ x.slot = n ∧ x.result.isNone = true ∧ held.any (fun b => b.tickets.contains x.ticket) = true then
          d.onEntry x else x),
      relayResults := if p then a.relayResults.filter (fun r => !held.any (fun b => b.results.contains r))
        else a.relayResults,
      fwdReports := if p then a.fwdReports.filter (fun r => !held.any (fun b => b.reports.contains r)) else a.fwdReports,
      dutyLeft := if p && pSide w g == 2 then held.flatMap (·.left) else a.dutyLeft,
      relayDuty := if p && pSide w g == 2 then a.relayDuty.filter (fun x => !held.any (fun b => b.below.contains x))
        else a.relayDuty,
      forwards := if p && pSide w g == 1 then a.forwards.filter (fun x => x.frame != g) else a.forwards,
      built := a.built.filter (fun b => !(b.slot == n && decide (b.frame ≤ g))) } }

/-- COMMIT_POINT (R20 to R22, R38, R67, R172 to R175). -/
def execCommitPoint (slot : BitVec 3) (cca : Cca) (s : State) : Out :=
  let g := s.slotFrame slot.toNat
  let r := s.commitHw slot cca
  .next (r.2.commitNote r.1 g slot.toNat)

/-! ### Cancelling (R73, R74) -/

/-- The next try: the earliest whose outcome point has not passed, with its index. -/
def State.nextTry (s : State) (o : OrderX) : Option (Try × Nat) := o.tries.zipIdx.find? (fun x => decide (s.now < x.1.outcomeAt))

/-- CANCEL: a late one disarms the slot, and the other entries of the packet end UNSENT (R74). -/
def State.cancelOrder (s : State) (o : OrderX) : State := s.withdrawOrder true o .cancelled

/-! ### Engine orders (R197, R461) -/

def rejCode : Rej → String
  | .tableFull => "TABLE_FULL" | .wrongMode => "WRONG_MODE" | .unknownUnit _ => "UNKNOWN_UNIT" | .noPath _ => "NO_PATH"
  | .badArg _ => "BAD_ARG" | .noRoom => "NOFIT" | .tooEarly _ => "NOFIT"

/-- The order of the engine as admission takes it: CLOSE for a flow of 0. -/
def EngineOrder.req (e : EngineOrder) : OrderReq :=
  { members := [e.unit.toNat], grp := none, act := if e.flow = 0 then 5 else 2, param := e.flow, port := 0, body := [],
    deadline := e.deadline, retries := e.retries, engine := true, netcfg := none, keySend := false }

/-- Fill the ADM column of the pass's row. -/
def State.rowAdm (s : State) (u : Nat) (adm : String) : State :=
  { s with afw := { s.afw with rows := s.afw.rows.map (fun r =>
      if r.isSeg = false ∧ r.member = u then { r with adm := adm } else r) } }

/-- Submit one engine order: PENDING on acceptance, an ENGREJ entry on rejection. -/
def State.submitEngine (s : State) (e : EngineOrder) : State :=
  let u := e.unit.toNat
  match s.admission e.req with
  | .ok (_, t) =>
    let t := (t.setLedFlag u 13 true).rowAdm u "OK"
    (match t.afw.orders.getLast? with | some o => t.placeOrder o | none => t)
  | .error r =>
    let t := { s with afw := { s.afw with stats := { s.afw.stats with rejected := s.afw.stats.rejected + 1 } } }
    (t.logEvent "ENGREJ" (kvH "unit" 4 u ++ kv "act" (if e.flow = 0 then "CLOSE" else "FLOW") ++ kv "code" (rejCode r))).rowAdm
      u (rejCode r)

/-- APPORTIONMENT_PASS_COMPLETE (R196, R197, R461): the pass's orders are submitted in issue order, or held while a
differing plan waits. -/
def execApportionmentPassComplete (s : State) : Out :=
  if !s.afw.ready || s.safe.on || s.afw.passOrders.isEmpty then .next s
  else
    let l := s.afw.passOrders
    let t := { s with afw := { s.afw with passOrders := [] } }
    if s.planWaits || !s.afw.heldOrders.isEmpty then
      .next { t with afw := { t.afw with heldOrders := t.afw.heldOrders ++ l } }
    else .next (l.foldl (fun (t : State) e => t.submitEngine e) t)

/-- HELD_ENGINE_ORDER_SUBMIT (R461): once the plan is current. -/
def execHeldEngineOrderSubmit (s : State) : Out :=
  if !s.afw.ready || s.safe.on || s.planWaits then .next s
  else
    let l := s.afw.heldOrders
    .next (l.foldl (fun (t : State) e => t.submitEngine e) { s with afw := { s.afw with heldOrders := [] } })

/-- WATERMARK_EXPIRY (R78): at Tick 4,800 of frame W − 1, or later, the watermark still names frame W. -/
def execWatermarkExpiry (s : State) : Out :=
  if s.sys.wmark != 0xFFFFFFFF && decide (s.sys.wmark.toNat ≤ s.frm + 1) &&
     (decide (s.sys.wmark.toNat ≤ s.frm) || decide (4800 ≤ s.seq.tick)) && !s.safe.on && !s.asleep then
    .next (s.enterSafe 2)
  else .next s

end Sys2Proof.Machine
end

