-- ==== Sys2Proof/Machine/Plans.lean ====
section
/-! DEFINITION. When changed pages may apply, and how the shipped AFW commits its plans and builds the next frame's packets
(R107, R207, R208, R210, R220, R322 to R324, R460). -/

namespace Sys2Proof.Machine

open Sys2Proof

/-! ### Changed pages (R107) -/

/-- Frame 0 of the next Cycle, and of the next Rotation when Cycles of cyc frames follow. -/
def State.cycleAt (s : State) : Nat := s.frm + max 1 (s.seq.cycLen.toNat - s.seq.fic.toNat)
def State.rotationAt (s : State) (cyc : Nat) : Nat := s.cycleAt + (s.seq.rotLen.toNat - 1 - s.seq.cir.toNat) * cyc

/-- The frames in which the PLAN page changes when these lengths are pending. -/
def State.lensMarks (s : State) (cyc rot : Nat) : List Nat :=
  if s.isRelay then []
  else (if cyc = s.seq.cycLen.toNat then [] else [s.cycleAt]) ++
    (if rot = s.seq.rotLen.toNat then [] else [s.rotationAt cyc])

/-- The last CFGV increment and the ones due, those of pending lengths apart. -/
def State.cfgvMade (s : State) : List Nat :=
  s.aon.cfgvFrame.toList.map (·.toNat) ++ s.afw.cfgvDue.toList.map (·.toNat)

def State.cfgvMarks (s : State) : List Nat :=
  s.cfgvMade ++ s.lensMarks (s.seq.cycPend.getD s.seq.cycLen).toNat (s.seq.rotPend.getD s.seq.rotLen).toNat

/-- The increments within 64 frames of a change that would apply in frame e. A change that would leave an increment due
within 64 frames after its own is held too (log entry 34). -/
def heldBy (marks : List Nat) (e : Nat) : List Nat := marks.filter (fun d => decide (e < d + 64) && decide (d < e + 64))

/-- The first frame from e on in which a change may apply. -/
def cfgvFree (marks : List Nat) : Nat → Nat → Nat
  | 0, e => e
  | k + 1, e => match heldBy marks e with
    | [] => e
    | h :: r => cfgvFree marks k (r.foldl max h + 64)

/-- The first frame in which a change of the pages may apply, when frame g is too near to an increment made or due (R107).
An increment kept from before a firmware start counts. -/
def State.cfgvBar (s : State) (g : Nat) : Option Nat :=
  if (heldBy s.cfgvMarks g).isEmpty then none else some (cfgvFree s.cfgvMarks 8 g)

/-- An increment of CFGV falls due in frame g, or 64 frames after the last one. A change made before the first beacon of a
firmware start has none of its own: that beacon's increment covers it (R107, log entry 34). -/
def State.cfgvSchedule (s : State) (g : Nat) : State :=
  if s.afw.firstBeacon then s else { s with afw := { s.afw with cfgvDue := some (BitVec.ofNat 32 ((s.cfgvBar g).getD g)) } }

/-- The frame of the next beacon whose packet a change can still reach (R460). -/
def State.nextBeacon (s : State) : Nat := if s.seq.schedTick + 24 ≤ 9581 then s.frm + 1 else s.frm + 2

/-- `-ERR WRONG_STATE config changed recently`: a change applies in the frame after the one in which its command
executes, so the command is accepted from the frame before (R324). -/
def State.changedRecently (s : State) (e : Nat) : State :=
  s.err ("WRONG_STATE config changed recently" ++ kvF "after" (e - 1))

/-! ### Commits -/

/-- Write a frame plan to the ledger SRAM and commit it; `base` is the plan behind one with wake runs over it. -/
def State.commitFrom (s : State) (a : Nat) (p : Memory) (forCmd : Bool) (base : Option Memory) : State :=
  (s.wrN a ((List.range 1280).map p.get0)).commitPlan
    { plan := p, addr := BitVec.ofNat 24 a, caller := none, validated := false, forCmd := forCmd, base := base }

/-- Commit the frame plan of a base plan that is to become the current one. -/
def State.commitBase (s : State) (b : BasePlan) : State :=
  let e := s.effectivePlan b
  let t := s.commitFrom Config.planAddr (s.framePlan e (s.frm + 1)) true none
  { t with afw := { t.afw with coming := some e, comingLatched := false } }

/-- Runs of this machine's own transmitter in a frame; a relay makes none in SEARCH and ORPHAN (R211). -/
def State.ownRuns (s : State) (g : Nat) : List WakeRun :=
  if s.mayBuild roleW false then s.afw.wakes.filter (fun w => w.frame == g && w.via == s.ownAddr) else []

/-- The plan without wake runs that frame g needs: of the base plan that is to become current, or the one in force; a
relay that is the upstream end of an exchange in odd frames alone has two forms of it (R208). -/
def State.baseOf (s : State) (g : Nat) : Memory :=
  let b := s.afw.current
  match s.afw.coming with
  | some c => s.framePlan c g
  | none =>
    if s.isRelay && s.pSides == (2, 1) && (s.basePlan == s.framePlan b 0 || s.basePlan == s.framePlan b 1) then
      s.framePlan b g
    else s.basePlan

/-- Commit the plan that the next frame needs where the one that stands for it is another: with the frame's wake runs over
it, and the base plan again after them (R220, R322). A plan that a core has committed stands. -/
def State.commitWakes (s : State) : State :=
  let g := s.frm + 1
  let b := s.afw.coming.getD s.afw.current
  let runs := s.ownRuns g
  let base := s.baseOf g
  let want := if runs.isEmpty then base else s.overlayWakes base b runs
  let have? := match s.seq.pend with | some p => some p.plan | none => s.seq.cur
  let core := match s.seq.pend with | some p => p.caller.isSome | none => false
  if s.seq.next.isSome || core || have?.isNone || have? == some want then s
  else s.commitFrom (if runs.isEmpty then Config.planAddr else Config.planAddr + 0x500) want s.afw.coming.isSome
    (if runs.isEmpty then none else some base)

/-- DOWNLINK_BUILD (R460): the transmit slots' packets and the plan of the next frame. -/
def execDownlinkBuild (s : State) : Out :=
  if !s.afw.ready || s.safe.on || s.pwr.state == .standby || s.pwr.state == .sleep then .next s
  else .next ((List.range 8).foldl (fun (t : State) n => t.buildSlot n) s.commitWakes)

end Sys2Proof.Machine
end

