-- ==== Sys2Proof/Machine/Link.lean ====
section
/-! DEFINITION. What the shipped AFW does with the packets it receives: reports, immediate acks, up bundles, and lost
relays (R71, R72, R94 to R97, R113, R116, R129, R149, R187, R215, R217). -/

namespace Sys2Proof.Machine

open Sys2Proof

/-! ### Descriptors and buffers (R155 to R157) -/

/-- A descriptor's fields that AFW uses. -/
structure Desc where
  fok : Bool
  clip : Bool
  /-- Bit 7: window W1; and the lane. -/
  lane : Nat
  slot : Nat
  sub : Nat
  /-- Sync end in 1/16 Tick from the start of the slot. -/
  sync : Nat
  rssi : Int
  margin : Int
  frame : Nat
  buf : Nat
  deriving DecidableEq, Repr

/-- The frame of a descriptor: the latest frame whose low half is word 6. -/
def State.descFrame (s : State) (w : Word) : Nat := s.frm - (s.frm + 65536 - w.toNat) % 65536

def State.desc (s : State) (ws : List Word) : Desc :=
  let w (i : Nat) : Word := ws.getD i 0
  { fok := bit (w 0) 15, clip := bit (w 0) 14 || bit (w 0) 13, lane := field (w 0) 6 0, slot := field (w 1) 7 5, sub := field (w 1) 4 2,
    sync := (w 2).toNat,
    rssi := max (hiByte (w 3)).toInt (loByte (w 3)).toInt, margin := (hiByte (w 5)).toInt,
    frame := s.descFrame (w 6), buf := 128 * (w 7).toNat }

/-- Core A1 takes the descriptor from the descriptor queue when it stands at its front (R273) and reads the packet through the
ECC logic (R367); its buffer returns to the free-buffer queue. A queue with EN = 0 is empty (R371). -/
def State.takeDesc (s : State) (ws : List Word) : State :=
  let s := s.scan 1 (128 * (ws.getD 7 0).toNat) 73
  if (s.queue descQ).empty = false ∧ ((s.queue descQ).words.take 8).map (·.v) = ws.take 8 ∧ 8 ≤ ws.length then
    ((List.range 8).foldl (fun (t : State) _ => (t.corePop .a1 descQ).2) s).qpush bufQ (ws.getD 7 0)
  else s

/-- A packet that AFW opens: its source and payload. -/
structure Opened where
  src : Word
  payload : List Byte
  deriving DecidableEq, Repr

/-- Check and decrypt a packet under a unit's key (R94 to R96): FOK, its type, its destination and FRM must be right.
`own` takes the machine's own key instead of the source's. -/
def State.openUnit (s : State) (d : Desc) (type : Nat) (own : Bool) : Option Opened :=
  let b := s.packetBytes d.buf 144
  let h := Header.ofBytes b
  if !d.fok || h.type != type || h.key || h.dst != s.ownAddr || h.frm != lo16 d.frame then none
  else
    let key := s.keyBytes (if own then s.ownAddr.toNat else h.src.toNat)
    if !keyPresent key || h.src == 0xFFFF || (h.src == 0 && !own) then none
    else
      (ccmOpenBytes key (nonceBytes type s.district h.src h.dst d.frame d.slot 0 0 0) (b.take 8)
        ((b.drop 10).take h.len) ((b.drop (10 + h.len)).take 4)).map (fun p => ⟨h.src, p⟩)

/-! ### Reports -/

/-- PADJ of R149; MARGIN is in 0.5 dB. -/
def padjOf (d : Desc) : BitVec 2 :=
  if d.clip then 2 else if d.rssi ≥ -55 then 2 else if d.rssi ≥ -65 then 1 else if d.margin < 12 then 3 else 0

/-- Did the packet come in a relay's own alarm window (R133): lane 1 of slot 1 while the relay's beacon has SAFE = 1? -/
def State.inAlarmWindow (s : State) (d : Desc) : Bool := s.safeIn d.frame && d.slot == 1 && d.lane == 1

/-- REPORT_RECEIVED (R96, R110, R113, R116, R130, R187 to R191): applied, listed in the group acknowledgement, and by a
relay also forwarded (R129). An alarm of a relay's alarm window goes to the relay's own host alone (R133). -/
def execReportReceived (desc : List Word) (s : State) : Out :=
  if !s.afw.ready || s.safe.on then .next s
  else
    let d := s.desc desc
    let t := s.takeDesc desc
    match s.openUnit d 3 false with
    | none => .next t
    | some o =>
      let alarm := s.inAlarmWindow d
      let heard : Heard := ⟨BitVec.ofInt 8 d.rssi, BitVec.ofInt 8 d.margin, padjOf d⟩
      let t := t.applyReport o.src.toNat o.payload ⟨some heard, none, d.frame, 0, !alarm⟩
      let fwd : FwdReport := ⟨o.src, d.frame, o.payload⟩
      if s.isRelay && !alarm && decide (17 ≤ o.payload.length) then
        .next (({ t with afw := { t.afw with fwdReports := t.afw.fwdReports ++ [fwd] } }.refreshUp).refresh 1)
      else .next (t.refresh 1)

/-! ### Immediate acks (R29, R67, R97) -/

/-- Does the ack in the buffer verify for a unit, a slot, a sub-slot and a ticket? -/
def State.ackValid (s : State) (d : Desc) (unit ticket : Word) : Bool :=
  let b := s.packetBytes d.buf 6
  let key := s.keyBytes unit.toNat
  keyPresent key && b.getD 1 0 == ackCheckByte s.district (b.getD 0 0) &&
    ccmTag key (nonceBytes 0xA s.district unit s.ownAddr d.frame d.slot 0 d.sub ticket) (b.take 2) [] == b.drop 2

/-- The order and try that an ack in this slot and sub-slot answers. -/
def State.ackTry (s : State) (d : Desc) : Option (OrderX × Nat) :=
  s.afw.orders.findSome? (fun o =>
    (o.tries.zipIdx.find? (fun x => x.1.down.isEmpty && x.1.frame == d.frame && x.1.slot == d.slot && x.1.sent &&
      x.1.result.isNone && x.1.pos.getD 0 == d.sub)).map (fun x => (o, x.2)))

/-- An ack that comes after its order's disposition is logged (R72). -/
def State.lateAck (s : State) (d : Desc) : State :=
  match s.afw.late.find? (fun x => x.frame == d.frame && x.slot == d.slot && x.pos == d.sub && s.ackValid d x.unit x.ticket) with
  | some x => s.logEvent "LATERES" (kvH "ticket" 4 x.ticket.toNat ++ kvH "unit" 4 x.unit.toNat ++ kv "outcome" "ACKED")
  | none => s

/-- ACK_RECEIVED (R67, R69, R71, R72): at the coordinator the order is DONE; at a relay the entry's result is ACKED. -/
def execAckReceived (desc : List Word) (s : State) : Out :=
  if !s.afw.ready || s.safe.on then .next s
  else
    let d := s.desc desc
    let t := s.takeDesc desc
    let ack := (s.packetBytes d.buf 1).getD 0 0
    match s.relay with
    | none =>
      (match s.ackTry d with
       | some (o, k) => if s.ackValid d o.unit o.ticket then .next (t.acked o k ack) else .next t
       | none => .next (t.lateAck d))
    | some _ =>
      (match s.afw.relayEntries.find? (fun e => e.frame == d.frame && e.slot == d.slot && e.sent && e.result.isNone &&
          e.pos.getD 0 == d.sub) with
       | some e => if s.ackValid d e.unit e.ticket then .next (t.relayOutcome e .acked ack) else .next t
       | none => .next t)

/-! ### Up bundles (R71, R72, R129, R215) -/

def codeOutcome (n : Nat) : TryOutcome :=
  if n = 0 then .acked else if n = 1 then .silent else if n = 2 then .blocked else if n = 3 then .synlate
  else if n = 4 then .gated else .unsent

def outcomeText : TryOutcome → String
  | .acked => "ACKED" | .silent => "SILENT" | .blocked => "BLOCKED" | .synlate => "SYNLATE" | .gated => "GATED"
  | .lost => "LOST" | .unsent => "UNSENT"

/-- The parts of an up bundle's payload: results, duty entries, forwarded reports. -/
def upResults (p : List Byte) : List (Word × TryOutcome × Byte) :=
  (List.range ((p.getD 0 0).toNat / 16)).map (fun i =>
    (wordAt p (1 + 4 * i), codeOutcome ((p.getD (3 + 4 * i) 0).toNat / 32), p.getD (4 + 4 * i) 0))

def upDuty (p : List Byte) : List (Bool × Nat × Nat) :=
  let n := (p.getD 0 0).toNat
  (List.range (n % 16)).map (fun i =>
    let a := 1 + 4 * (n / 16) + 3 * i
    ((p.getD a 0).getLsbD 7, (p.getD a 0).toNat % 8, (wordAt p (a + 1)).toNat))

/-- Forwarded reports: unit, age, payload. -/
def upReportsAux : Nat → List Byte → List (Word × Nat × List Byte)
  | 0, _ => []
  | k + 1, l =>
    if l.length < 4 then []
    else
      let n := (l.getD 3 0).toNat
      (wordAt l 0, (l.getD 2 0).toNat, (l.drop 4).take n) :: upReportsAux k (l.drop (4 + n))

def upReports (p : List Byte) : List (Word × Nat × List Byte) :=
  let n := (p.getD 0 0).toNat
  upReportsAux 32 (p.drop (1 + 4 * (n / 16) + 3 * (n % 16)))

/-- A try outcome that a relay reports, for the try whose result travels in this exchange. -/
def State.takeResult (s : State) (relay : Word) (d : Desc) (r : Word × TryOutcome × Byte) : State :=
  match s.orderOf r.1 with
  | none =>
    (match s.history r.1 with
     | some a => s.logEvent "LATERES" (kvH "ticket" 4 r.1.toNat ++ kvH "unit" 4 (s.rd (a + 1)).toNat ++
         kv "outcome" (outcomeText r.2.1))
     | none => s)
  | some o =>
    match o.tries.zipIdx.find? (fun x => match x.1.up.getLast? with
        | some h => h.frame == d.frame && h.slot == d.slot && h.relay == relay && x.1.result.isNone
        | none => false) with
    | none => s
    | some (t, k) =>
      if r.2.1 = .acked then s.acked o k r.2.2
      else s.setOrder { o with tries := o.tries.zipIdx.map (fun y => if y.2 = k then { t with result := some r.2.1 } else y.1) }

/-- A relay's duty figure for a frame: the larger of its report and the model's own value (R61). -/
def Afw.putDuty (a : Afw) (relay : Word) (range frame ticks : Nat) : Afw :=
  let here (x : RelayDuty) : Bool := x.relay == relay && x.range == range && x.frame == frame
  if a.relayDuty.any here then
    { a with relayDuty := a.relayDuty.map (fun x => if here x then { x with ticks := max x.ticks ticks } else x) }
  else { a with relayDuty := a.relayDuty ++ [RelayDuty.mk relay range frame ticks] }

/-- The depth-2 relay whose figures a depth-1 relay's bundle of frame f passes on (SRCD = 1): the one it served in the
frame before (R209; log entry 68). -/
def State.relayUnder (s : State) (relay : Word) (f : Nat) : Option Nat := s.servedRelay relay.toNat (f - 1)

/-- A valid up bundle of a relay, in these slots of the current frame: its count of missed windows starts again, and LOST
clears (R215). -/
def State.relayHeard (s : State) (relay : Word) (slots : List Nat) : State :=
  let old := (s.afw.upMiss.find? (fun x => x.relay == relay)).getD ⟨relay, 0, []⟩
  let m : UpMiss := ⟨relay, 0, old.heard ++ slots⟩
  let t := { s with afw := { s.afw with upMiss := s.afw.upMiss.filter (fun x => x.relay != relay) ++ [m] } }
  let u := relay.toNat
  if s.nodeLost u then
    (t.setNodeW u 0 (setBit (t.nodeW u 0) 10 false)).event .alarm "" (kv "kind" "RELAYBACK" ++ kvH "unit" 4 u)
  else t

/-- A duty entry of a bundle of frame f: of the sending relay for the frame before, of the relay below for the frame before
its own bundle, which shows as well that this relay was heard (R61, R129, R215; log entry 68). -/
def State.takeDuty (s : State) (relay : Word) (f : Nat) (x : Bool × Nat × Nat) : State :=
  if x.1 then
    match s.relayUnder relay f with
    | some r => ({ s with afw := s.afw.putDuty (lo16 r) x.2.1 (f - 2) x.2.2 } : State).relayHeard (lo16 r) []
    | none => s
  else { s with afw := s.afw.putDuty relay x.2.1 (f - 1) x.2.2 }

/-- A report that a depth-1 relay forwards raises !ALARM with its own host as well, unless it is a repeat (R116, R337). -/
def State.fwdAlarm (s : State) (f : Nat) (x : Word × Nat × List Byte) : State :=
  let r := Report.ofBytes x.2.2
  if decide (x.2.2.length < 17) || s.isRepeat x.1.toNat r.rseq f then s
  else
    let t : State := { s with afw := { s.afw with seen := s.afw.seen ++ [⟨x.1, r.rseq, f, 0, false⟩] } }
    t.alarmEvent x.1.toNat r

/-- UP_BUNDLE_RECEIVED (R129): the coordinator takes results, duty and reports; a depth-1 relay keeps them for its own
up bundle, its duty entries until they have been sent or a later bundle replaces them. -/
def execUpBundleReceived (desc : List Word) (s : State) : Out :=
  if !s.afw.ready || s.safe.on then .next s
  else
    let d := s.desc desc
    let t := s.takeDesc desc
    match s.openUnit d 7 false with
    | none => .next t
    | some o =>
      match s.relay with
      | none =>
        let t := t.relayHeard o.src (if d.frame = t.frm then [d.slot] else [])
        let t := (upDuty o.payload).foldl (fun (t : State) x => t.takeDuty o.src d.frame x) t
        let t := (upResults o.payload).foldl (fun (t : State) r => t.takeResult o.src d r) t
        .next ((upReports o.payload).foldl (fun (t : State) r =>
          t.applyReport r.1.toNat r.2.2 ⟨none, some o.src.toNat, d.frame, r.2.1, false⟩) t)
      | some _ =>
        let res (r : Word × TryOutcome × Byte) : RelayResult := ⟨r.1, r.2.1, r.2.2, d.frame, d.slot⟩
        let rep (r : Word × Nat × List Byte) : FwdReport := ⟨r.1, d.frame - r.2.1, r.2.2⟩
        let dut (x : Bool × Nat × Nat) : RelayDuty := ⟨o.src, x.2.1, d.frame - 1, x.2.2⟩
        let t := (upReports o.payload).foldl (fun (t : State) x => t.fwdAlarm d.frame x) t
        let a := t.afw
        .next ({ t with afw := { a with
          relayResults := ((upResults o.payload).map res).foldl (fun l r => insertResult r l) a.relayResults,
          relayDuty := (upDuty o.payload).map dut,
          fwdReports := a.fwdReports ++ (upReports o.payload).map rep } } : State).refreshUp

/-! ### Lost relays (R215) -/

/-- The slots of frame g whose up window a relay owns: those of the exchanges that serve it. -/
def State.upWindows (s : State) (g relay : Nat) : List Nat :=
  (List.range 8).filter (fun n => s.serves g n (s.relay1 relay) relay)

/-- Consecutive windows missed after windows of one frame, in slot order. -/
def missAfter (heard : List Nat) (count : Nat) (slots : List Nat) : Nat :=
  slots.foldl (fun c n => if heard.contains n then 0 else c + 1) count

/-- Consecutive up windows of a relay without a valid up bundle, up to now. -/
def State.missNow (s : State) (relay : Nat) : Nat :=
  let m := (s.afw.upMiss.find? (fun x => x.relay.toNat == relay)).getD ⟨lo16 relay, 0, []⟩
  missAfter m.heard m.count ((s.upWindows s.frm relay).filter (fun n => decide (1200 * (n + 1) ≤ s.seq.tick)))

/-- RELAY_LOST (R215): 16 consecutive up windows without a valid up bundle. -/
def execRelayLost (relay : Word) (s : State) : Out :=
  let u := relay.toNat
  if s.afw.ready && !s.safe.on && !s.isRelay && s.nodeValid u && s.nodeKind u == 4 && !s.nodeLost u &&
     decide (16 ≤ s.missNow u) then
    .next ((s.setNodeW u 0 (setBit (s.nodeW u 0) 10 true)).event .alarm "" (kv "kind" "RELAYLOST" ++ kvH "unit" 4 u))
  else .next s

/-- The windows of the frame that ends are counted. -/
def State.countUpMiss (s : State) (g : Nat) : State :=
  if s.isRelay then s
  else
    let next (u : Nat) : UpMiss :=
      let m := (s.afw.upMiss.find? (fun x => x.relay.toNat == u)).getD ⟨lo16 u, 0, []⟩
      ⟨lo16 u, missAfter m.heard m.count (s.upWindows g u), []⟩
    { s with afw := { s.afw with upMiss := (s.nodes.filter (fun u => s.nodeKind u == 4)).map next } }

end Sys2Proof.Machine
end

