-- ==== Sys2Proof/Machine/Relay.lean ====
section
/-! DEFINITION. Relay mode: the coordinator's time, beacons missed, down bundles (R44, R49, R77, R107, R131, R207,
R210 to R218, R220). -/

namespace Sys2Proof.Machine

open Sys2Proof

/-! ### The upstream beacon (R104, R105) -/

structure Beacon where
  safe : Bool
  step : Bool
  depth : Nat
  page : Nat
  frameH : Nat
  fic : Nat
  cir : Nat
  cfgv : BitVec 2
  rot : Word
  body : List Byte
  deriving DecidableEq, Repr

def Beacon.ofBytes (p : List Byte) : Beacon :=
  let b := (p.getD 0 0).toNat
  let m := beNat ((p.drop 3).take 3)
  { safe := b / 128 % 2 == 1, step := b / 64 % 2 == 1, depth := b / 16 % 4, page := b % 16,
    frameH := (wordAt p 1).toNat, fic := m / 4096 % 4096, cir := m / 4 % 1024, cfgv := BitVec.ofNat 2 m,
    rot := wordAt p 6, body := (p.drop 8).take 7 }

/-- Discard every order entry and forward not yet committed, and take them out of the packets that stand (R77, R214). -/
def State.dropEntries (s : State) : State :=
  let t := { s with afw := { s.afw with relayEntries := s.afw.relayEntries.filter (·.sent), forwards := [] } }
  (t.afw.built.map (fun b => (b.frame, b.slot))).foldl (fun (t : State) x =>
    let w := planSlot (t.planFor x.1) x.2
    if w.role == roleD || (w.role == roleP && pSide w x.1 == 1) then t.redo x else t) t

/-- The stored pages follow CFGV (R107, R211): a page under another CFGV is discarded. -/
def Afw.takePage (a : Afw) (b : Beacon) (frame : Nat) : Afw :=
  let a := match a.upPlan with
    | some p => if p.2 = b.cfgv then a else { a with upPlan := none }
    | none => a
  if b.page = 0 then { a with upPlan := some (b.body, b.cfgv) }
  else if b.page = 4 then { a with upStep := some b.body }
  else if b.page = 6 then
    let valid := (b.body.getD 4 0).getLsbD 7
    { a with upTime := some b.body,
             utc := if valid then some ((beNat (b.body.take 4) : Int) - (frame : Int)) else a.utc,
             usrc := if valid then .beacon else a.usrc }
  else a

/-- The relay's beacon in flight carries what the upstream beacon of the same frame says (R131, R210, log entry 33). -/
def State.rewriteBeacon (s : State) : State :=
  match s.seq.tx with
  | some t =>
    if t.slot = 0 ∧ t.frame = s.seq.frame ∧ t.phase = .committed ∧ (planSlot s.plan 0).role = roleB then
      match s.broadcast 1 s.frm 0 (planSlot s.plan 0).hopwin (s.beaconPayload s.frm) with
      | some b => { s with seq := { s.seq with tx := some { t with bytes := b } } }
      | none => s
    else s
  | none => s

/-- Follow the upstream PLAN page (R107, R207, R210): the relay's plan is built again and committed, and its own beacon
carries the new page from the frame of its own CFGV increment on. A change too near to the last increment waits for a later
beacon; before the first beacon of a firmware start none has to, and the copy is taken at once. A page that puts a P slot at 12.5
kHz gives no plan (R127). -/
def State.relayReplan (s : State) : State :=
  match s.afw.upPlan with
  | none => s
  | some p =>
    let c := s.afw.current
    let e := s.effectivePlan c
    let commit (t : State) : State := if e = c ∨ c.bch = none ∨ e.narrowP = true then t else t.commitBase c
    if s.afw.coming.isSome then s
    else if s.afw.firstBeacon then
      commit { s with afw := { s.afw with planCopy := some p.1 } }
    else if s.afw.planCopy = some p.1 ∧ e = c then s
    else match s.cfgvBar (s.frm + 1) with
      | some _ => s
      | none => commit (s.cfgvSchedule (s.frm + 1))

/-! ### UPSTREAM_BEACON_RECEIVED -/

/-- The payload of an upstream beacon sent in frame f: its checks of R90, R94 to R96 and R211 under a broadcast key, the
current one first. -/
def State.openBeacon (s : State) (r : RelayCfg) (d : Desc) (f : Nat) : Option Beacon :=
  let b := s.packetBytes d.buf 144
  let h := Header.ofBytes b
  if !d.fok || h.type != 1 || !h.key || h.dst != 0xFFFF || h.src != r.upstream || h.len != 15 || h.frm != lo16 f then none
  else
    let nonce := nonceBytes 1 s.district h.src h.dst f 0 (r.depth - 1) 0 0
    let open1 (key : List Byte) : Option Beacon :=
      if keyPresent key then
        (ccmOpenBytes key nonce (b.take 8) ((b.drop 10).take 15) ((b.drop 25).take 4)).map Beacon.ofBytes
      else none
    ([s.bkey, s.keyBytes (bslotEntry (!s.aon.bslot))].findSome? open1).filter
      (fun x => x.depth + 1 == r.depth && x.frameH == f / 65536)

/-- A beacon opened without a frame number of one's own: the upper half is the one under which the MIC and FRAMEH agree
(R96, R212). -/
def State.searchBeacon (s : State) (r : RelayCfg) (d : Desc) : Option (Nat × Beacon) :=
  let frm := (Header.ofBytes (s.packetBytes d.buf 144)).frm.toNat
  (List.range 65536).findSome? (fun h => (s.openBeacon r d (65536 * h + frm)).map (fun b => (65536 * h + frm, b)))

/-- Does a beacon carry the relay into another Cycle: another CIR or ROT, or a FIC before its own (R42, R44)? -/
def Seq.newCycle (q : Seq) (b : Beacon) : Bool :=
  q.cir != BitVec.ofNat 16 b.cir || q.rot != b.rot || decide (b.fic < q.fic.toNat)

/-- What every valid upstream beacon sets (R44, R211). The count of rejections belongs to a Cycle (R42). -/
def Seq.tracked (q : Seq) (b : Beacon) (roffs : Word) : Seq :=
  { q with rejInCycle := if q.newCycle b then 0 else q.rejInCycle, rstate := 2, orphan := false, miss := 0, hold := 0,
           safeUp := b.safe, roffs := roffs,
           backFrame := if q.orphan then some q.frame else q.backFrame,
           fic := BitVec.ofNat 16 b.fic, cir := BitVec.ofNat 16 b.cir, rot := b.rot }

/-- The first beacon in SEARCH places the relay in frame f (R212): its frame boundary lies at the sync end less the start of
hop window DEPTH − 1 and 56 symbols. Frame numbers that the machine keeps move with the counter, and so do the duty store
and the record of the always-on logic, from which a restart resumes (R179, R412). -/
def State.placeBeacon (s : State) (r : RelayCfg) (d : Desc) (f : Nat) (b : Beacon) : State :=
  let since := s.now - (9600 * d.frame + 1200 * d.slot + d.sync / 16)
  let pos := hopStart (r.depth - 1) + symTicks (s.afw.current.cls 0) 56 + since
  let q := { s.seq.tracked b 0 with frame := BitVec.ofNat 32 f }
  let q := (List.range (pos / 9600)).foldl (fun (q : Seq) _ => q.advanceRelay s.upLens) q
  let moved (x : BitVec 32) : BitVec 32 := x + (q.frame - s.seq.frame)
  { s with
    seq := { q with tick := pos % 9600, slot := BitVec.ofNat 3 (pos % 9600 / 1200) },
    gate := s.gate.shift ((q.frame.toNat : Int) - (s.frm : Int)),
    aon := { s.aon with cfgvFrame := s.aon.cfgvFrame.map moved,
                        frec := s.aon.frec.map (fun x => { x with frame := q.frame, fic := q.fic, cir := q.cir, rot := q.rot }) },
    afw := { s.afw with cfgvDue := s.afw.cfgvDue.map moved } }

/-- A beacon of the relay's own frame: the correction for its last Tick, and a step that it announces (R49, R213). -/
def State.followBeacon (s : State) (m : Word) (b : Beacon) : State :=
  let q := s.seq.tracked b m
  let q := { q with corr := clampCorr (m.toInt + meanCorr q.corrHist) }
  { s with seq := if b.step && b.page == 4 then
      { q with step := BitVec.ofNat 32 (beNat (b.body.take 4)), stepPend := true, stepFrame := some q.frame } else q }

/-- UPSTREAM_BEACON_RECEIVED (R44, R49, R96, R131, R211 to R214): the beacon stands in the buffer of its descriptor; m is
the offset of its sync end. -/
def execUpstreamBeaconReceived (m : Word) (desc : List Word) (s : State) : Out :=
  match s.relay with
  | none => .next s
  | some r =>
    if !s.afw.ready || s.safe.on then .next s
    else
      let d := s.desc desc
      let t := s.takeDesc desc
      let got := if s.searching then s.searchBeacon r d else (s.openBeacon r d d.frame).map (fun b => (d.frame, b))
      match got with
      | none => .next t
      | some (f, b) =>
        let t := { t with afw := t.afw.takePage b f }
        let t := if s.searching then t.placeBeacon r d f b else t.followBeacon m b
        let t := if b.safe then t.dropEntries else t
        .next (t.relayReplan.rewriteBeacon.refresh 1)

/-- UPSTREAM_BEACON_MISS (R211, R213): HOLDOVER, MISS counts. -/
def execUpstreamBeaconMiss (s : State) : Out :=
  if s.isRelay && decide (2 ≤ s.seq.rstate.toNat) then
    .next { s with seq := { s.seq with rstate := 3, miss := if s.seq.miss = 0xFF then 0xFF else s.seq.miss + 1 } }
  else .next s

/-- RELAY_ORPHAN (R211, R214): after 120 consecutive frames in HOLDOVER. -/
def execRelayOrphan (s : State) : Out :=
  if s.isRelay && s.seq.rstate == 3 && !s.seq.orphan && decide (120 ≤ s.seq.hold) then
    let t := (({ s with seq := { s.seq with orphan := true } }).dropEntries.refresh 0).refresh 1
    .next ((List.range 8).foldl (fun (t : State) n =>
      if (planSlot (t.planFor (t.nextFrame n)) n).role = roleW then t.armClr ((1 : Word) <<< n) else t) t)
  else .next s

/-! ### Down bundles (R128, R216, R218) -/

/-- One order head or control position with the positions that belong to it. -/
structure DownItem where
  head : List Byte
  rest : List (List Byte)
  deriving DecidableEq, Repr

def DownItem.addr (x : DownItem) : Word := wordAt x.head 0
def DownItem.op (x : DownItem) : Word := wordAt x.head 4
def DownItem.toff (x : DownItem) : Nat := (x.head.getD 6 0).toNat
def DownItem.isWake (x : DownItem) : Bool := x.addr == 0xFFFF

/-- NOFF: seven bits of an order head, five of a control position. -/
def DownItem.noff (x : DownItem) : Nat :=
  let b := (x.head.getD 7 0).toNat
  if x.isWake then b / 8 else b % 128

/-- How many positions follow a head: one for LONG, the body of an OPAQUE order. -/
def follows (head : List Byte) (next : List Byte) : Nat :=
  if wordAt head 0 = 0xFFFF then 0
  else if field (wordAt head 4) 15 13 = 7 then ((next.getD 2 0).toNat + 6) / 6
  else if (head.getD 7 0).getLsbD 7 then 1
  else 0

/-- The items of a bundle; void positions are passed over. -/
def downItems : Nat → List (List Byte) → List DownItem
  | 0, _ => []
  | _, [] => []
  | k + 1, h :: r =>
    if wordAt h 0 = 0 then downItems k r
    else
      let n := follows h (r.headD [])
      let x : DownItem := ⟨h, r.take n⟩
      x :: downItems k (r.drop n)

/-- The 8-byte positions of a payload. -/
def cut8 : Nat → List Byte → List (List Byte)
  | 0, _ => []
  | k + 1, l => if l.length < 8 then [] else l.take 8 :: cut8 k (l.drop 8)

/-- The body bytes of an OPAQUE order. -/
def DownItem.body (x : DownItem) : List Byte :=
  let l := x.rest.flatMap (fun p => p.drop 2)
  (l.drop 1).take (l.getD 0 0).toNat

def DownItem.param (x : DownItem) : BitVec 32 := BitVec.ofNat 32 (beNat (((x.rest.headD []).drop 2).take 4))

/-- The item as forwarded: TOFF recomputed, NOFF 0. -/
def DownItem.onward (x : DownItem) : List Byte :=
  let b7 := (x.head.getD 7 0).toNat
  let last := if x.isWake then b7 % 8 else b7 / 128 * 128
  (x.head.take 6 ++ [BitVec.ofNat 8 (x.toff - x.noff), BitVec.ofNat 8 last]) ++ x.rest.flatten

/-- The next free position of an instance. -/
def nextPosition (l : List RelayEntry) (f n : Nat) : Nat :=
  (l.filter (fun e => e.frame == f && e.slot == n)).foldl
    (fun m e => max m (e.pos.getD 0 + actPos (field e.op 15 13))) 0

/-- What a relay does with an item of a bundle received in frame g (R68, R216, R220). -/
def State.takeItem (s : State) (g : Nat) (x : DownItem) : State :=
  if x.noff ≠ 0 then
    let fw : Forward := ⟨g + x.noff, x.onward⟩
    let t : State := { s with afw := { s.afw with forwards := s.afw.forwards ++ [fw] } }
    match t.firstP (g + x.noff) with
    | some n => t.refreshAt (g + x.noff, n)
    | none => t
  else if x.isWake then
    let w : WakeRun := { frame := g + x.toff, first := (x.head.getD 7 0).toNat % 8, n := (x.head.getD 4 0).toNat,
                         wcode := (wordAt x.head 2).setWidth 12, via := s.ownAddr, bundle := 0, noff := 0 }
    { s with afw := { s.afw with wakes := s.afw.wakes ++ [w] } }
  else
    let u := x.addr.toNat
    let tk := wordAt x.head 2
    let f := g + x.toff
    let slot := (slotsOf s.basePlan roleD)[s.nodeD u]?
    let n := slot.getD 7
    match s.afw.ackedTickets.find? (fun a => a.1 == tk && decide (s.afw.cycleNo ≤ a.2.2 + 1)) with
    | some a => s.relayResult tk .acked a.2.1 f n
    | none =>
      if !s.nodeValid u || !s.hasKey u then
        (s.logEvent "NOKEY" (kvH "ticket" 4 tk.toNat ++ kvH "unit" 4 u)).relayResult tk .unsent 0 f n
      else if slot.isNone then s.relayResult tk .unsent 0 f n
      else
        let e : RelayEntry := { unit := x.addr, ticket := tk, op := x.op, param := x.param, body := x.body, frame := f,
                                slot := n, pos := some (nextPosition s.afw.relayEntries f n), sent := false, result := none,
                                ack := 0 }
        let t := { s with afw := { s.afw with relayEntries := s.afw.relayEntries ++ [e] } }
        if f = t.nextFrame n then t.buildSlot n else t

/-- DOWN_BUNDLE_RECEIVED (R216): in SEARCH and ORPHAN, and under an upstream SAFE, no entry is held (R77, R211). -/
def execDownBundleReceived (desc : List Word) (s : State) : Out :=
  match s.relay with
  | none => .next s
  | some r =>
    if !s.afw.ready || s.safe.on then .next s
    else
      let d := s.desc desc
      let t := s.takeDesc desc
      match s.openUnit d 6 true with
      | none => .next t
      | some o =>
        if o.src != r.upstream || s.seq.rstate.toNat ≤ 1 || s.seq.orphan || s.seq.safeUp then .next t
        else .next ((downItems 64 (cut8 64 o.payload)).foldl (fun (t : State) x => t.takeItem d.frame x) t).refreshUp

end Sys2Proof.Machine
end

