-- ==== Sys2Proof/Machine/Boundary.lean ====
section
/-! DEFINITION. Frame boundaries, plan validation, resumed service and calibration steps with what AFW makes of them
(R17, R25, R39 to R50, R61, R107, R179, R200, R213, R385, R397 to R407, R412, R425). -/

namespace Sys2Proof.Machine

open Sys2Proof

/-! ### Calibration figures (R407) -/

/-- The figures of CAL RUN, CAL GET and !CAL. -/
def State.calFigures (s : State) : String :=
  kv "temp" (quarters s.cal.temp.toInt) ++ kv "spur" (tenths s.cal.qspur.toInt) ++ kvN "skew" s.cal.qskew.toNat ++
    kv "img" (tenths s.cal.qimg.toNat) ++ kv "lol" (tenths s.cal.qlol.toNat) ++ kvN "synmarg" s.syn.margin

/-- !CAL, formed by AFW (R400, R407). -/
def State.calEvent (s : State) : State :=
  if s.afw.ready && !s.safe.on then
    s.event .cal "" (kv "part" "ALL" ++ s.calFigures ++ kvB "stale" s.cal.qStale)
  else s

/-- CAL RUN ends when every part it named has been measured (R405). -/
def State.calRunDone (s : State) : State :=
  if s.longKind = some .calRun then
    let need := match s.cal.run with | some r => r.need | none => []
    if need.isEmpty then s.finishLong .calRun ("+OK" ++ s.calFigures) else s
  else s

/-- CALIBRATION_SLOT (R400, R142): the work of a C slot, once in the slot; AFW emits !CAL after it. -/
def execCalibrationSlot (m : CalMeas) (s : State) : Out :=
  if s.seq.stopped || s.safe.on || s.curRole != roleC || s.slotWorked then .next s
  else .next ((s.calSlot m).calEvent.calRunDone)

/-- CALIBRATION_STEP (R401 to R404): a step in a gap; at the end of a triggered run AFW emits !CAL. -/
def execCalibrationStep (m : CalMeas) (s : State) : Out :=
  let trig := match s.cal.run with | some r => r.kind == .triggered | none => false
  let t := s.calStep m
  let t := if trig && t.cal.run.isNone then t.calEvent else t
  .next t.calRunDone

/-! ### Plan validation (R39, R42) -/

/-- PLAN_VALIDATION_END: acceptance, or a rejection that ends PLAN COMMIT (R323). -/
def execPlanValidationEnd (s : State) : Out :=
  let cmd := match s.seq.pend with | some p => p.forCmd && !p.validated | none => false
  let r := s.validateEnd
  match r.1 with
  | some g =>
    let t := if cmd then { r.2 with afw := { r.2.afw with coming := none } } else r.2
    .next (if cmd then t.finishLong .planCommit ("-ERR REJECTED" ++ kvH "reason" 4 (Config.reason g).toNat) else t)
  | none =>
    if s.afw.ready && !s.safe.on then
      .next ((List.range 8).foldl (fun (t : State) n => t.refresh n) r.2)
    else .next r.2

/-! ### The frame boundary -/

/-- The totals of the ended frame for the information area (R179, R275). -/
def State.dutyTotals (s : State) (f : Nat) : List Word :=
  (List.range 8).map (fun j => BitVec.ofNat 16 (s.gate.charged j (f : Int) (f : Int)))

/-- The duty model's own value of each relay for the ended frame (R61). -/
def State.bookRelays (s : State) (f : Nat) : State :=
  if s.isRelay then s
  else
    let rs := s.nodes.filter (fun u => s.nodeKind u == 4)
    let all := s.resvs
    let adds := rs.flatMap (fun u => (List.range (regionN (s.region.getD []))).map (fun j => (u, j, s.load all u j f)))
    let a := (adds.filter (fun x => decide (0 < x.2.2))).foldl
      (fun (a : Afw) x => a.addDuty (lo16 x.1) x.2.1 f x.2.2) s.afw
    { s with afw := { a with relayDuty := a.relayDuty.filter (fun d => decide (f ≤ d.frame + 3600)) } }

/-- A fine correction at the end of a frame (R46, R213): a relay applies the mean alone in HOLDOVER and ORPHAN,
and in safe-hold (R428). -/
def State.corrected (s : State) : Seq :=
  if s.isRelay then
    let c := if s.seq.rstate = 3 || s.safe.on then clampCorr (meanCorr s.seq.corrHist) else s.seq.corr
    { s.seq with absRef := (((s.seq.absRef : Int) + 38400000 + c).toNat), corr := 0, corrNext := 0,
                 corrHist := if s.seq.rstate = 2 && !s.safe.on then (c :: s.seq.corrHist).take 64 else s.seq.corrHist }
  else s.seq.applyCorr

/-- The latched plan becomes current; PLAN COMMIT ends (R40, R324). -/
def State.takePlan (s : State) : State :=
  match s.seq.next with
  | none => s
  | some p =>
    let t := { s with seq := { s.seq with cur := some p, next := none },
                      afw := { s.afw with base := s.afw.nextBase, nextBase := none } }
    if s.afw.comingLatched then
      let t := { t with afw := { t.afw with current := t.afw.coming.getD t.afw.current, coming := none,
                                            comingLatched := false } }
      t.finishLong .planCommit ("+OK" ++ kvF "frame" t.frm ++ kvN "cfgv" t.aon.cfgv.toNat ++
        (if t.tx.regLock then "" else kvN "tx" 0))
    else t

/-- Core A1 takes the transmit results from their queue; with EN = 0 there are none (R371). -/
def State.drainResults (s : State) : State :=
  let q := s.queue resQ
  (List.range (if q.empty then 0 else q.words.length)).foldl (fun (t : State) _ => (t.corePop .a1 resQ).2) s

/-- What AFW does at the boundary to frame g; its expected reports are placed (R101), and a relay's up bundles take the
figures of the frame that has ended (R61, R129). -/
def State.afwFrame (s : State) (g : Nat) (cycle rotation : Bool) : State :=
  let t := if rotation then s.rollover else s
  let a := t.afw
  let t := { t with afw := { a with
    cycleNo := if cycle then a.cycleNo + 1 else a.cycleNo,
    seen := a.seen.filter (fun x => decide (g ≤ x.frame + 16)),
    woken := a.woken.filter (fun x => decide (g ≤ x.2 + 64)),
    wakes := a.wakes.filter (fun w => decide (g ≤ w.frame + 1)),
    ackedTickets := a.ackedTickets.filter (fun x => decide (a.cycleNo ≤ x.2.2 + 2)),
    fwdReports := a.fwdReports.filter (fun r => decide (g < r.frame + 255)),
    forwards := a.forwards.filter (fun x => decide (g ≤ x.frame)),
    late := a.late.filter (fun x => decide (g ≤ x.frame + 1)) } }
  let t := { t with afw := { t.afw with expected := t.expectNow } }
  t.drainResults.refreshUp

/-- The boundary in STANDBY (R383): the counters and the duty store go on, rollovers fall due. -/
def State.standbyFrame (s : State) : State :=
  let due := if s.rotationEnds then s.pwr.dueRoll + 1 else s.pwr.dueRoll
  let t := { s with seq := s.advance s.seq, pwr := { s.pwr with dueRoll := due } }
  { t with gate := t.gate.advance (t.frm : Int), aon := { t.aon with frec := some t.seq.record } }

/-- The boundary with the sequencer running. -/
def State.runFrame (s : State) (temp : BitVec 10) (vpa : BitVec 13) (est : EstMeas) : State :=
  let f := s.frm
  let afwOn := s.afw.ready && !s.safe.on
  let steps := afwOn && s.cfgvSteps (f + 1)
  let t := if afwOn then (s.bookRelays f).countUpMiss f else s
  let t := t.countEstimate
  let q := (t.advance t.corrected).applyPpsen
  let q := { q with hold := if q.rstate = 3 ∧ q.orphan = false then q.hold + 1 else q.hold,
                    testState := q.testState && !q.testEnd, testEnd := false }
  let t := { t with
    seq := q,
    sys := { t.sys with dutyFrm := s.seq.frame, dutyTot := s.dutyTotals f },
    gate := t.gate.advance (q.frame.toNat : Int),
    aon := { t.aon with frec := some q.record,
                        cfgv := if steps then t.aon.cfgv + 1 else t.aon.cfgv,
                        cfgvFrame := if steps then some q.frame else t.aon.cfgvFrame },
    afw := if steps then { t.afw with cfgvDue := none,
                                      planCopy := match t.afw.upPlan with | some p => some p.1 | none => t.afw.planCopy }
      else if afwOn && s.cfgvWanted (f + 1) then { t.afw with cfgvDue := some (BitVec.ofNat 32 s.cfgvRest) }
      else t.afw }
  let t := (t.calFrame temp vpa est).takePlan
  let t := if afwOn then t.afwFrame q.frame.toNat s.cycleEnds s.rotationEnds else t
  let t := (if s.safe.on then t.writeSafeBeacon else t).readyStep
  t.raiseAll 2

/-- FRAME_BOUNDARY (R50). In SLEEP the Tick stands still (R386). -/
def execFrameBoundary (temp : BitVec 10) (vpa : BitVec 13) (est : EstMeas) (s : State) : Out :=
  if s.pwr.state = .sleep then .next s
  else if s.seq.stopped then .next s.standbyFrame
  else .next (s.runFrame temp vpa est)

/-! ### Resumed service (R384, R385) -/

/-- RESUMED_SERVICE: the first frame under a plan after a wake from STANDBY, which the recovery run precedes (R403): the
rollovers that fell due are made, and the interpreter is no longer busy. -/
def execResumedService (s : State) : Out :=
  if s.pwr.resuming && s.seq.cur.isSome && !s.safe.on && !s.recovering then
    let t := (List.range s.pwr.dueRoll).foldl (fun (t : State) _ => t.rollover) s
    .next { t with pwr := { t.pwr with resuming := false, dueRoll := 0 },
                   ports := { t.ports with sbBusy := t.interp.long.isSome } }
  else .next s

end Sys2Proof.Machine
end

