-- ==== Sys2Proof/Machine/Operands.lean ====
section
/-! DEFINITION. The Facet cores: registers, the distances of the pipeline, the return stack, traps, and what every
instruction does around its own operation (R222 to R247, R260). -/

namespace Sys2Proof.Machine

open Sys2Proof

/-! ### Registers (R223 to R225) -/

/-- A general register; G0 reads as 0. -/
def Core.rg (k : Core) (i : BitVec 4) : Word := if i = 0 then 0 else k.g.get ⟨i.toNat, i.isLt⟩

/-- A write of a general register; one of G0 is discarded. -/
def Core.setG (k : Core) (i : BitVec 4) (v : Word) : Core :=
  if i = 0 then k else { k with g := k.g.set i.toNat v i.isLt }

def Core.rp (k : Core) (i : BitVec 3) : Addr := k.p.get ⟨i.toNat, i.isLt⟩
def Core.setP (k : Core) (i : BitVec 3) (v : Addr) : Core := { k with p := k.p.set i.toNat v i.isLt }
def Core.rac (k : Core) (i : BitVec 2) : Acc := k.ac.get ⟨i.toNat, i.isLt⟩
def Core.setAc (k : Core) (i : BitVec 2) (v : Acc) : Core := { k with ac := k.ac.set i.toNat v i.isLt }

/-- The even register of a pair Dk (R224). -/
def pairLo (k : BitVec 3) : BitVec 4 := BitVec.ofNat 4 (2 * k.toNat)

/-- The odd register of a pair Dk (R224). -/
def pairHi (k : BitVec 3) : BitVec 4 := BitVec.ofNat 4 (2 * k.toNat + 1)

/-- A double-word pair: the odd register holds bits [31:16] (R224). -/
def Core.rd2 (c : Core) (k : BitVec 3) : BitVec 32 :=
  BitVec.ofNat 32 ((c.rg (pairHi k)).toNat * 65536 + (c.rg (pairLo k)).toNat)

/-! ### Distances (R235 to R237) -/

/-- A write that `n` further instructions do not see; the count includes the writing instruction itself. -/
def Core.delay (k : Core) (n : Nat) (d : PendDst) (v : Acc) : Core :=
  { k with pending := k.pending ++ [⟨n + 1, d, v⟩] }

/-- A pending write takes place. The entries for CST only hid a new value and hide it no longer. -/
def Core.commitOne (k : Core) (w : PendWrite) : Core :=
  match w.dst with
  | .g i => k.setG i (w.val.setWidth 16)
  | .p i => k.setP i (w.val.setWidth 24)
  | .ac i => k.setAc i w.val
  | .cst => k
  | .sticky => k

/-- Complete every pending write (R237). -/
def Core.flush (k : Core) : Core := { (k.pending.foldl Core.commitOne k) with pending := [] }

/-- The end of an instruction: each pending write comes one instruction nearer, and those that are due take place, in
program order (R235, R236). -/
def Core.age (k : Core) : Core :=
  let due := k.pending.filter (fun w => w.left ≤ 1)
  let rest := (k.pending.filter (fun w => 1 < w.left)).map (fun w => { w with left := w.left - 1 })
  { (due.foldl Core.commitOne k) with pending := rest }

/-- The newest value written to a place, pending or not; `old` is the value already there. -/
def Core.newest (k : Core) (d : PendDst) (old : Acc) : Acc :=
  match (k.pending.filter (fun w => w.dst == d)).getLast? with
  | some w => w.val
  | none => old

/-- An accumulator as an accumulation into it reads it (R235, R257). -/
def Core.accum (k : Core) (i : BitVec 2) : Acc := k.newest (.ac i) (k.rac i)

/-- An address register as ADDP reads the register it updates. -/
def Core.newestP (k : Core) (i : BitVec 3) : Addr := (k.newest (.p i) ((k.rp i).setWidth 40)).setWidth 24

/-! ### Status (R226, R227, R235) -/

/-- The modes in force: the instruction after an MVC write of CST still follows the old setting. -/
def Core.modes (k : Core) : Word := (k.newest .cst (k.cst.setWidth 40)).setWidth 16

def Core.sat (k : Core) : Bool := bit k.modes 15
def Core.rnd (k : Core) : Rnd := BitVec.ofNat 2 (field k.modes 14 13)
def Core.ie (k : Core) : Bool := bit k.modes 12
def Core.tact (k : Core) : Bool := bit k.cst 11

/-- Set the sticky bits; the next instruction's MVC read does not see a bit set here (R235). -/
def Core.stick (k : Core) (ov dz : Bool) : Core :=
  let m := bitWord 1 ov ||| bitWord 0 dz
  let new := m &&& ~~~k.cst
  if new = 0 then k else ({ k with cst := k.cst ||| m }).delay 1 .sticky (new.setWidth 40)

/-- CST as MVC reads it. -/
def Core.cstRead (k : Core) : Word := k.cst &&& ~~~((k.newest .sticky 0).setWidth 16)

/-- CST with a new value: reserved bits stay 0, RND = 3 leaves RND, TACT is as given (R226, R227). -/
def cstWrite (old v : Word) (tact : Bool) : Word :=
  (v &&& 0x9003) ||| (if field v 14 13 = 3 then old &&& 0x6000 else v &&& 0x6000) ||| bitWord 11 tact

/-- CST from ICST or TCST (R244, R246). -/
def Core.restoreCst (k : Core) (v : Word) : Core :=
  { k with cst := cstWrite k.cst v (bit v 11), pending := k.pending.filter (fun w => w.dst != .cst && w.dst != .sticky) }

/-- A result in a general register, with its sticky bits. -/
def Core.putG (k : Core) (d : BitVec 4) (r : Narrow 16) : Core := (k.setG d r.val).stick r.ov r.dz

/-- A result in an accumulator, which the next instruction does not see (R235, R257). -/
def Core.putAc (k : Core) (u : BitVec 2) (r : Narrow 40) : Core := (k.delay 1 (.ac u) r.val).stick r.ov r.dz

/-! ### Return stack (R239) -/

/-- Entries of the width (R222). -/
def stackSize (c : CoreId) : Nat := if c.isT then 4 else 8

def Core.push (c : CoreId) (v : Word) (k : Core) : Core :=
  { k with stack := k.stack.setIfInBounds (k.sp % stackSize c) v, sp := (k.sp + 1) % stackSize c,
           depth := min (stackSize c) (k.depth + 1) }

def Core.popPos (c : CoreId) (k : Core) : Nat := (k.sp + stackSize c - 1) % stackSize c

/-- The entry a pop delivers; an empty stack delivers the one at the wrapped position. -/
def Core.top (c : CoreId) (k : Core) : Word := k.stack.toList.getD (k.popPos c) 0

def Core.pop (c : CoreId) (k : Core) : Core := { k with sp := k.popPos c, depth := k.depth - 1 }

/-- STACK_OVF and STACK_UNF with STKTRAP = 1. -/
def Core.ovf (c : CoreId) (k : Core) : Bool := k.stktrap && decide (stackSize c ≤ k.depth)
def Core.unf (k : Core) : Bool := k.stktrap && k.depth == 0

/-! ### Traps (R245 to R247, R278) -/

/-- The state a handled trap leaves (R246): every earlier instruction is complete, and a repeat is suspended with its
executions still to come in REPCNT (R242); ILLEGAL_REPEAT leaves REPCNT 0 (R241). -/
def Core.trapEntry (cause : BitVec 4) (addr : Addr) (k0 : Core) : Core :=
  let k := k0.flush
  { k with
    tpc := k.pc, tcst := k.cst, tcause := cause.setWidth 16,
    taddr := if cause = 5 ∨ cause = 6 then addr else k.taddr,
    cst := (k.cst ||| 0x0800) &&& 0xEFFF, pc := 2, branch := none, rpt := none,
    repcnt := if cause = 2 then 0 else match k.rpt with | some r => r.left | none => k.repcnt,
    rptIntr := match k.rpt with | some r => r.intr | none => false }

/-- The powered-down domain that an access of core T to an address meets: a bank that is off or drains (R233, R389). -/
def State.offDomain (s : State) (a : Addr) : Option Domain :=
  let b := bankOf a.toNat
  if h : b < 8 then (if s.pwr.bankOn.getLsbD b && !s.drains b then none else some (.ledger ⟨b, h⟩)) else none

/-- Any trap of core T but the wait for a powered-down domain resets the machine with cause 0x3 (R278). -/
def State.resetByT (s : State) : State := s.sampledReset 3 false false

/-- A trap of a core: cause 0 stands for an uncorrectable word of program RAM (R247). An unhandled trap of an
application core stops it and leads to safe-hold; core T takes its own traps as R278 says. Its work that meets a
powered-down domain is set aside until that domain wakes, and TMON handles an uncorrectable ledger word (R367; log entry
23). -/
def State.trap (s : State) (c : CoreId) (cause : BitVec 4) (addr : Addr) : State :=
  let k := s.core c
  if c.isT then
    if cause = 5 ∧ addr.toNat < sramEnd ∧ k.tact = false then s.modCore c (Core.trapEntry cause addr)
    else match s.offDomain addr with
    | some d =>
      if cause = 6 ∧ k.tact = false then
        { (s.modCore c (Core.trapEntry cause addr)) with
          sys := { s.sys with setAside := s.sys.setAside ++ [⟨d, k.pc, k.flush.cst, k.branch, k.rpt⟩] } }
      else s.resetByT
    | none => s.resetByT
  else if cause = 0 ∨ k.thand = false ∨ k.tact = true then
    (s.enterSafe 3).setCore c { k.flush with run := .stopped }
  else s.modCore c (Core.trapEntry cause addr)

/-! ### The course of an instruction -/

/-- What an instruction's own operation came to: done, or a trap that leaves the core's registers as they were. -/
inductive Done where
  | ok (s : State)
  | trap (cause : BitVec 4) (addr : Addr) (s : State)
  deriving DecidableEq, Repr

/-- How an instruction stands to repeats and delay slots: unrepeatable (R241), and barred from a delay slot (R238). -/
structure Shape where
  words : Nat
  unrep : Bool := false
  ctl : Bool := false
  deriving DecidableEq, Repr

/-- After an instruction's operation: pending writes come nearer, then the program counter moves: to the branch's
target after a delay slot, past a finished or skipped instruction, or not at all while a repeat goes on (R240, R260).
`b` and `r` are the branch and the repeat in force before the instruction. -/
def Core.retire (words : Nat) (b : Option Branch) (r : Option Repeat) (k0 : Core) : Core :=
  let k := k0.age
  match b with
  | some br =>
    let k := { k with pc := br.target.getD (k.pc + BitVec.ofNat 14 words), branch := none }
    (match br.cst with
    | none => k
    | some v =>
      let k := k.restoreCst v
      if br.resume = 0 then k
      else { k with repcnt := 0, rpt := some ⟨br.resume, br.intr, true⟩ })
  | none =>
    match r with
    | none => { k with pc := k.pc + BitVec.ofNat 14 words }
    | some q =>
      if q.left = 1 then { k with rpt := none, pc := k.pc + BitVec.ofNat 14 words }
      else { k with rpt := some { q with left := q.left - 1, started := true } }

/-- The words of an instruction in program RAM, where the program counter wraps. -/
def Core.fetched (k : Core) (words : Nat) : List Nat := (List.range words).map (fun i => (k.pc.toNat + i) % 0x4000)

/-- Corrected single-bit errors of the fetched words count in ECC_LCEC.PCEC (R369). -/
def Core.countFetch (words : Nat) (k : Core) : Core :=
  { k with pcec := ((k.fetched words).filter k.pramSingle.contains).foldl (fun n _ => satInc8 n) k.pcec }

/-- One execution of an instruction on a core that runs; on a core that is held, stopped or gated nothing executes. An
uncorrectable word that an application core fetches is an unhandled trap (R247, R369). The trap order is that of R264. -/
def State.instr (s : State) (c : CoreId) (sh : Shape) (body : State → Done) : Out :=
  let bad := !c.isT && ((s.core c).fetched sh.words).any (s.core c).pramBad.contains
  let single := !c.isT && (s.core c).run == .running && ((s.core c).fetched sh.words).any (s.core c).pramSingle.contains
  let s := if single then s.modCore c (Core.countFetch sh.words) else s
  let k := s.core c
  let run : Out :=
    if sh.ctl && k.branch.isSome then .next (s.trap c 1 0)
    else match body s with
      | .ok t => .next (t.modCore c (Core.retire sh.words k.branch k.rpt))
      | .trap cause addr t => .next (t.trap c cause addr)
  if k.run != .running then .next s
  else if bad then .next (s.trap c 0 0)
  else if c.isT && decide (0x21FF < k.pc.toNat + sh.words - 1) then .next s.resetByT
  else match k.rpt with
    | none => run
    | some r =>
      if sh.unrep then .next (s.trap c 2 0)
      else if r.left = 0 then .next (s.modCore c (fun k => { k with rpt := none, pc := k.pc + BitVec.ofNat 14 sh.words }))
      else run

/-- An instruction whose operation changes only the core. -/
def State.alu (s : State) (c : CoreId) (words : Nat) (f : Core → Core) : Out :=
  s.instr c { words := words } (fun t => .ok (t.modCore c f))

/-- Refuse an instruction that no encoding of the core's width has (R222). -/
def encodable (i : Instr) (o : Out) : Out := if i.wf then o else .refused .notEncodable

end Sys2Proof.Machine
end

