-- ==== Sys2Proof/Machine/FacetAcc.lean ====
section
/-! DEFINITION. Multiply and accumulator instructions (R229, R255 to R257). -/

namespace Sys2Proof.Machine

open Sys2Proof

/-- MPY: the fractional product (R255). -/
def execFMpy (c : CoreId) (u : BitVec 2) (x y : BitVec 4) (s : State) : Out :=
  encodable (.fMpy c u x y) (s.alu c 1 (fun k => k.putAc u (plain (fracProduct (k.rg x) (k.rg y)))))

/-- MAC: accumulate the fractional product (R255). -/
def execFMac (c : CoreId) (u : BitVec 2) (x y : BitVec 4) (s : State) : Out :=
  encodable (.fMac c u x y) (s.alu c 1 (fun k => k.putAc u (accAdd k.sat (k.accum u) (fracProduct (k.rg x) (k.rg y)).toInt)))

/-- MPYI: the signed integer product (R255). -/
def execFMpyi (c : CoreId) (u : BitVec 2) (x y : BitVec 4) (s : State) : Out :=
  encodable (.fMpyi c u x y) (s.alu c 1 (fun k => k.putAc u (plain (intProduct (k.rg x) (k.rg y)))))

/-- MPYU: the unsigned integer product (R255). -/
def execFMpyu (c : CoreId) (u : BitVec 2) (x y : BitVec 4) (s : State) : Out :=
  encodable (.fMpyu c u x y) (s.alu c 1 (fun k => k.putAc u (plain (uintProduct (k.rg x) (k.rg y)))))

/-- MVL: ACn[15:0] (R256). -/
def execFMvl (c : CoreId) (d : BitVec 4) (u : BitVec 2) (s : State) : Out :=
  encodable (.fMvl c d u) (s.alu c 1 (fun k => k.putG d (plain ((k.rac u).setWidth 16))))

/-- MVH: rounded, then saturated (R256). -/
def execFMvh (c : CoreId) (d : BitVec 4) (u : BitVec 2) (s : State) : Out :=
  encodable (.fMvh c d u) (s.alu c 1 (fun k => k.putG d (extractHigh k.sat k.rnd (k.rac u))))

/-- MVG: the guard bits, sign-extended (R256). -/
def execFMvg (c : CoreId) (d : BitVec 4) (u : BitVec 2) (s : State) : Out :=
  encodable (.fMvg c d u) (s.alu c 1 (fun k => k.putG d (plain ((((k.rac u) >>> 32).setWidth 8).signExtend 16))))

/-- MVA: Gs × 2^16 (R256). -/
def execFMva (c : CoreId) (u : BitVec 2) (b : BitVec 4) (s : State) : Out :=
  encodable (.fMva c u b) (s.alu c 1 (fun k => k.putAc u (plain (BitVec.ofInt 40 ((k.rg b).toInt * 65536)))))

/-- ACC: add Gs sign-extended (R256). -/
def execFAcc (c : CoreId) (u : BitVec 2) (b : BitVec 4) (s : State) : Out :=
  encodable (.fAcc c u b) (s.alu c 1 (fun k => k.putAc u (accAdd k.sat (k.accum u) (k.rg b).toInt)))

/-- ACCU: add Gs zero-extended (R256). -/
def execFAccu (c : CoreId) (u : BitVec 2) (b : BitVec 4) (s : State) : Out :=
  encodable (.fAccu c u b) (s.alu c 1 (fun k => k.putAc u (accAdd k.sat (k.accum u) ((k.rg b).toNat : Int))))

/-- SHA: an arithmetic shift of 40 bits (R256). -/
def execFSha (c : CoreId) (u : BitVec 2) (b : BitVec 4) (s : State) : Out :=
  encodable (.fSha c u b) (s.alu c 1 (fun k => k.putAc u (shiftArith 40 k.sat k.rnd (k.rac u) (shiftAmount (k.rg b)))))

/-- A result in a pair Dk, with its sticky bits. -/
def Core.putD (c : Core) (k : BitVec 3) (r : Narrow 32) : Core :=
  ((c.setG (pairLo k) (r.val.setWidth 16)).setG (pairHi k) ((r.val >>> 16).setWidth 16)).stick r.ov r.dz

/-- MVD: bits [31:0], saturated (R256). A k of 0 is an undefined encoding (R248). -/
def execFMvd (c : CoreId) (k : BitVec 3) (u : BitVec 2) (s : State) : Out :=
  encodable (.fMvd c k u)
    (if k = 0 then s.instr c { words := 1 } (fun t => .trap 1 0 t)
     else s.alu c 1 (fun q => q.putD k (extractDouble q.sat (q.rac u))))

/-- ADDA: the destination is read as an accumulation, ACm under its distance (R256, R257). -/
def execFAdda (c : CoreId) (u m : BitVec 2) (s : State) : Out :=
  encodable (.fAdda c u m) (s.alu c 1 (fun k => k.putAc u (accAdd k.sat (k.accum u) (k.rac m).toInt)))

/-- SUBA; CLR ACn, that is SUBA ACn, ACn, always gives 0 and never sets OV (R256). -/
def execFSuba (c : CoreId) (u m : BitVec 2) (s : State) : Out :=
  encodable (.fSuba c u m) (s.alu c 1 (fun k =>
    k.putAc u (if u = m then plain 0 else accAdd k.sat (k.accum u) (-(k.rac m).toInt))))

end Sys2Proof.Machine
end

