-- ==== Sys2Proof/Machine/FacetAlu.lean ====
section
/-! DEFINITION. The ALU, ALX and immediate instructions (R248, R250, R252 to R254). -/

namespace Sys2Proof.Machine

open Sys2Proof

/-- Words of an instruction that may carry one EXT prefix (R250). -/
def extWords (ext : Bool) : Nat := if ext then 2 else 1

/-- A two-source operation: the first source is Gd, or Ga with an EXT prefix (R250). -/
def State.alu2 (s : State) (c : CoreId) (d : BitVec 4) (a : Option (BitVec 4)) (b : BitVec 4)
    (f : Core → Word → Word → Narrow 16) : Out :=
  s.alu c (extWords a.isSome) (fun k => k.putG d (f k (k.rg (a.getD d)) (k.rg b)))

/-- A one-source operation (R252). -/
def State.alu1 (s : State) (c : CoreId) (d b : BitVec 4) (f : Core → Word → Narrow 16) : Out :=
  s.alu c 1 (fun k => k.putG d (f k (k.rg b)))

/-- MOV (R252). -/
def execFMov (c : CoreId) (d b : BitVec 4) (s : State) : Out :=
  encodable (.fMov c d b) (s.alu1 c d b (fun _ B => plain B))

/-- NEG (R252). -/
def execFNeg (c : CoreId) (d b : BitVec 4) (s : State) : Out :=
  encodable (.fNeg c d b) (s.alu1 c d b (fun k B => negate k.sat B))

/-- ABS (R252). -/
def execFAbs (c : CoreId) (d b : BitVec 4) (s : State) : Out :=
  encodable (.fAbs c d b) (s.alu1 c d b (fun k B => absolute k.sat B))

/-- ADD: signed, R230. -/
def execFAdd (c : CoreId) (d : BitVec 4) (a : Option (BitVec 4)) (b : BitVec 4) (s : State) : Out :=
  encodable (.fAdd c d a b) (s.alu2 c d a b (fun k A B => narrowS 16 k.sat (A.toInt + B.toInt)))

/-- SUB: signed, R230. -/
def execFSub (c : CoreId) (d : BitVec 4) (a : Option (BitVec 4)) (b : BitVec 4) (s : State) : Out :=
  encodable (.fSub c d a b) (s.alu2 c d a b (fun k A B => narrowS 16 k.sat (A.toInt - B.toInt)))

/-- AND (R252). -/
def execFAnd (c : CoreId) (d : BitVec 4) (a : Option (BitVec 4)) (b : BitVec 4) (s : State) : Out :=
  encodable (.fAnd c d a b) (s.alu2 c d a b (fun _ A B => plain (A &&& B)))

/-- OR (R252). -/
def execFOr (c : CoreId) (d : BitVec 4) (a : Option (BitVec 4)) (b : BitVec 4) (s : State) : Out :=
  encodable (.fOr c d a b) (s.alu2 c d a b (fun _ A B => plain (A ||| B)))

/-- XOR (R252). -/
def execFXor (c : CoreId) (d : BitVec 4) (a : Option (BitVec 4)) (b : BitVec 4) (s : State) : Out :=
  encodable (.fXor c d a b) (s.alu2 c d a b (fun _ A B => plain (A ^^^ B)))

/-- LSH: a logical shift by B[7:0] (R253). -/
def execFLsh (c : CoreId) (d : BitVec 4) (a : Option (BitVec 4)) (b : BitVec 4) (s : State) : Out :=
  encodable (.fLsh c d a b) (s.alu2 c d a b (fun _ A B => plain (shiftLogical A (shiftAmount B))))

/-- ASH: an arithmetic shift by B[7:0] (R253). -/
def execFAsh (c : CoreId) (d : BitVec 4) (a : Option (BitVec 4)) (b : BitVec 4) (s : State) : Out :=
  encodable (.fAsh c d a b) (s.alu2 c d a b (fun k A B => shiftArith 16 k.sat k.rnd A (shiftAmount B)))

/-- CLT: signed (R252). -/
def execFClt (c : CoreId) (d : BitVec 4) (a : Option (BitVec 4)) (b : BitVec 4) (s : State) : Out :=
  encodable (.fClt c d a b) (s.alu2 c d a b (fun _ A B => plain (flagWord (decide (A.toInt < B.toInt)))))

/-- CLE: signed (R252). -/
def execFCle (c : CoreId) (d : BitVec 4) (a : Option (BitVec 4)) (b : BitVec 4) (s : State) : Out :=
  encodable (.fCle c d a b) (s.alu2 c d a b (fun _ A B => plain (flagWord (decide (A.toInt ≤ B.toInt)))))

/-- CEQ (R252). -/
def execFCeq (c : CoreId) (d : BitVec 4) (a : Option (BitVec 4)) (b : BitVec 4) (s : State) : Out :=
  encodable (.fCeq c d a b) (s.alu2 c d a b (fun _ A B => plain (flagWord (A == B))))

/-- CNE (R252). -/
def execFCne (c : CoreId) (d : BitVec 4) (a : Option (BitVec 4)) (b : BitVec 4) (s : State) : Out :=
  encodable (.fCne c d a b) (s.alu2 c d a b (fun _ A B => plain (flagWord (A != B))))

/-- CULT: unsigned (R252). -/
def execFCult (c : CoreId) (d : BitVec 4) (a : Option (BitVec 4)) (b : BitVec 4) (s : State) : Out :=
  encodable (.fCult c d a b) (s.alu2 c d a b (fun _ A B => plain (flagWord (decide (A.toNat < B.toNat)))))

/-- CULE: unsigned (R252). -/
def execFCule (c : CoreId) (d : BitVec 4) (a : Option (BitVec 4)) (b : BitVec 4) (s : State) : Out :=
  encodable (.fCule c d a b) (s.alu2 c d a b (fun _ A B => plain (flagWord (decide (A.toNat ≤ B.toNat)))))

/-- DIV (R254). -/
def execFDiv (c : CoreId) (d : BitVec 4) (a : Option (BitVec 4)) (b : BitVec 4) (s : State) : Out :=
  encodable (.fDiv c d a b) (s.alu2 c d a b (fun k A B => divSigned k.sat k.rnd A B))

/-- DIVU (R254). -/
def execFDivu (c : CoreId) (d : BitVec 4) (a : Option (BitVec 4)) (b : BitVec 4) (s : State) : Out :=
  encodable (.fDivu c d a b) (s.alu2 c d a b (fun k A B => divUnsigned k.rnd A B))

/-- ADDU: unsigned (R252). -/
def execFAddu (c : CoreId) (d : BitVec 4) (a : Option (BitVec 4)) (b : BitVec 4) (s : State) : Out :=
  encodable (.fAddu c d a b) (s.alu2 c d a b (fun k A B => narrowU k.sat ((A.toNat : Int) + B.toNat)))

/-- SUBU: unsigned (R252). -/
def execFSubu (c : CoreId) (d : BitVec 4) (a : Option (BitVec 4)) (b : BitVec 4) (s : State) : Out :=
  encodable (.fSubu c d a b) (s.alu2 c d a b (fun k A B => narrowU k.sat ((A.toNat : Int) - B.toNat)))

/-- MVI (R252). -/
def execFMvi (c : CoreId) (d : BitVec 4) (i : Imm) (s : State) : Out :=
  encodable (.fMvi c d i) (s.alu c (extWords i.ext) (fun k => k.putG d (plain i.v)))

/-- ADDI: ADD with the immediate (R252). -/
def execFAddi (c : CoreId) (d : BitVec 4) (i : Imm) (s : State) : Out :=
  encodable (.fAddi c d i)
    (s.alu c (extWords i.ext) (fun k => k.putG d (narrowS 16 k.sat ((k.rg d).toInt + i.v.toInt))))

/-- LSHI: LSH by the immediate (R252, R253). -/
def execFLshi (c : CoreId) (d : BitVec 4) (i : Imm) (s : State) : Out :=
  encodable (.fLshi c d i)
    (s.alu c (extWords i.ext) (fun k => k.putG d (plain (shiftLogical (k.rg d) (shiftAmount i.v)))))

/-- ASHI: ASH by the immediate (R252, R253). -/
def execFAshi (c : CoreId) (d : BitVec 4) (i : Imm) (s : State) : Out :=
  encodable (.fAshi c d i)
    (s.alu c (extWords i.ext) (fun k => k.putG d (shiftArith 16 k.sat k.rnd (k.rg d) (shiftAmount i.v))))

end Sys2Proof.Machine
end

