-- ==== Sys2Proof/Machine/FacetFlow.lean ====
section
/-! DEFINITION. Address registers, control flow, repeats, MVC, interrupts and traps (R239 to R247, R259 to R263). -/

namespace Sys2Proof.Machine

open Sys2Proof

/-! ### Address registers (R259) -/

/-- The undefined encoding of a k field of 0 (R248, R263). -/
def State.illegalK (s : State) (c : CoreId) : Out := s.instr c { words := 1 } (fun t => .trap 1 0 t)

/-- MVP Pn, imm: the next instruction's addressing uses the old value (R235). -/
def execFMvp (c : CoreId) (p : BitVec 3) (v : Addr) (exts : BitVec 2) (s : State) : Out :=
  encodable (.fMvp c p v exts) (s.alu c (1 + exts.toNat) (fun k => k.delay 1 (.p p) (v.setWidth 40)))

/-- ADDP Pn, Dk: modulo 2^24. -/
def execFAddp (c : CoreId) (p k : BitVec 3) (s : State) : Out :=
  encodable (.fAddp c p k)
    (if k = 0 then s.illegalK c
     else s.alu c 1 (fun q => q.delay 1 (.p p) ((q.newestP p + (q.rd2 k).setWidth 24).setWidth 40)))

/-- MVP Pn, Dk: Dk[23:0]. -/
def execFMvpDk (c : CoreId) (p k : BitVec 3) (s : State) : Out :=
  encodable (.fMvpDk c p k)
    (if k = 0 then s.illegalK c
     else s.alu c 1 (fun q => q.delay 1 (.p p) (((q.rd2 k).setWidth 24).setWidth 40)))

/-- MVPL Gd, Pn. -/
def execFMvpl (c : CoreId) (d : BitVec 4) (p : BitVec 3) (s : State) : Out :=
  encodable (.fMvpl c d p) (s.alu c 1 (fun k => k.setG d ((k.rp p).setWidth 16)))

/-- MVPH Gd, Pn: zero-extended. -/
def execFMvph (c : CoreId) (d : BitVec 4) (p : BitVec 3) (s : State) : Out :=
  encodable (.fMvph c d p) (s.alu c 1 (fun k => k.setG d (((k.rp p) >>> 16).setWidth 16)))

/-! ### Branches, calls, returns (R238, R260) -/

def jumpShape (words : Nat) : Shape := { words := words, unrep := true, ctl := true }

/-- Words up to and including the branch word. -/
def branchWords (ext : Bool) : Nat := if ext then 2 else 1

/-- The branch address A is that of the branch word, not of its prefix; the target is A + 1 + offset (R260). -/
def Core.relTarget (k : Core) (off : BitVec 15) (ext : Bool) : PAddr :=
  k.pc + BitVec.ofNat 14 (branchWords ext) + BitVec.ofInt 14 off.toInt

/-- Take a branch, or fall through, after one delay slot. -/
def Core.goTo (k : Core) (t : Option PAddr) : Core := { k with branch := some ⟨t, none, 0, false⟩ }

/-- A relative branch under a test (R260). -/
def State.branchIf (s : State) (c : CoreId) (off : BitVec 15) (ext : Bool) (test : Core → Bool) : Out :=
  s.instr c (jumpShape (branchWords ext)) (fun t =>
    .ok (t.modCore c (fun k => k.goTo (if test k then some (k.relTarget off ext) else none))))

/-- BZ: the decision and the target are taken at the branch word (R260). -/
def execFBz (c : CoreId) (r : BitVec 4) (off : BitVec 15) (ext : Bool) (s : State) : Out :=
  encodable (.fBz c r off ext) (s.branchIf c off ext (fun k => k.rg r == 0))

/-- BNZ (R260). -/
def execFBnz (c : CoreId) (r : BitVec 4) (off : BitVec 15) (ext : Bool) (s : State) : Out :=
  encodable (.fBnz c r off ext) (s.branchIf c off ext (fun k => k.rg r != 0))

/-- B (R260). -/
def execFB (c : CoreId) (off : BitVec 15) (ext : Bool) (s : State) : Out :=
  encodable (.fB c off ext) (s.branchIf c off ext (fun _ => true))

/-- A call: push the address of the first word after the delay slot, unless the push traps (R239, R260). -/
def State.callTo (s : State) (c : CoreId) (words : Nat) (slotWords : BitVec 2) (target : Core → PAddr) : Out :=
  s.instr c (jumpShape words) (fun t =>
    let k := t.core c
    if k.ovf c then .trap 3 0 t
    else
      let ret : PAddr := k.pc + BitVec.ofNat 14 (words + slotWords.toNat)
      .ok (t.setCore c ((k.push c (ret.setWidth 16)).goTo (some (target k)))))

/-- CALL (R260). -/
def execFCall (c : CoreId) (off : BitVec 15) (ext : Bool) (slotWords : BitVec 2) (s : State) : Out :=
  encodable (.fCall c off ext slotWords) (s.callTo c (branchWords ext) slotWords (fun k => k.relTarget off ext))

/-- CALLR: branch to Gs[13:0] (R260). -/
def execFCallr (c : CoreId) (r : BitVec 4) (slotWords : BitVec 2) (s : State) : Out :=
  encodable (.fCallr c r slotWords) (s.callTo c 1 slotWords (fun k => (k.rg r).setWidth 14))

/-- JR (R260). -/
def execFJr (c : CoreId) (r : BitVec 4) (s : State) : Out :=
  encodable (.fJr c r) (s.instr c (jumpShape 1) (fun t =>
    .ok (t.modCore c (fun k => k.goTo (some ((k.rg r).setWidth 14))))))

/-- RET: pop; branch to the popped address (R239, R260). -/
def execFRet (c : CoreId) (s : State) : Out :=
  s.instr c (jumpShape 1) (fun t =>
    let k := t.core c
    if k.unf then .trap 4 0 t
    else .ok (t.setCore c ((k.pop c).goTo (some ((k.top c).setWidth 14)))))

/-- RETI: to IPC, with CST from ICST after the delay slot; a non-zero REPCNT resumes the repeat, which is one of RPTI, the
only kind that an interrupt suspends (R242, R244). -/
def execFReti (c : CoreId) (s : State) : Out :=
  s.instr c (jumpShape 1) (fun t =>
    .ok (t.modCore c (fun k => { k with branch := some ⟨some k.ipc, some k.icst, k.repcnt, true⟩ })))

/-- RETT: to TPC, with CST from TCST (R246); the repeat that it resumes is of the kind that the trap suspended (R242). -/
def execFRett (c : CoreId) (s : State) : Out :=
  s.instr c (jumpShape 1) (fun t =>
    .ok (t.modCore c (fun k => { k with branch := some ⟨some k.tpc, some k.tcst, k.repcnt, k.rptIntr⟩ })))

/-- NOP. -/
def execFNop (c : CoreId) (s : State) : Out := s.alu c 1 (fun k => k)

/-- TRAP: always ILLEGAL, and unrepeatable (R241, R260). -/
def execFTrap (c : CoreId) (s : State) : Out :=
  s.instr c { words := 1, unrep := true } (fun t => .trap 1 0 t)

/-! ### Repeats (R240, R261) -/

/-- The count: 1 to 64, or the register's value as latched now. -/
def Core.rptCount (k : Core) : RptCount → Word
  | .imm n => n.setWidth 16 + 1
  | .reg r => k.rg r

/-- Start a repeat of the next instruction. -/
def State.rptStart (s : State) (c : CoreId) (n : RptCount) (intr : Bool) : Out :=
  s.instr c (jumpShape 1) (fun t =>
    .ok (t.modCore c (fun k => { k with rpt := some ⟨k.rptCount n, intr, false⟩ })))

/-- RPT (R240). -/
def execFRpt (c : CoreId) (n : RptCount) (s : State) : Out :=
  encodable (.fRpt c n) (s.rptStart c n false)

/-- RPTI (R240, R242). -/
def execFRpti (c : CoreId) (n : RptCount) (s : State) : Out :=
  encodable (.fRpti c n) (s.rptStart c n true)

/-! ### MVC (R226, R262) -/

/-- CORECFG. -/
def Core.coreCfg (c : CoreId) (k : Core) : Word :=
  place c.num 13 ||| bitWord 12 c.isT ||| bitWord 8 k.bada ||| bitWord 3 k.thand ||| bitWord 2 k.stktrap

/-- A control register as read. C1 while a repeat runs is a free value: the manual gives REPCNT for an interrupted
repeat, and 0 when none is running or suspended (R226, R242). -/
def State.creg (s : State) (c : CoreId) (n : BitVec 4) : Word :=
  let k := s.core c
  match n.toNat with
  | 0 => k.cstRead
  | 1 => if k.rpt.isSome then Config.freeWord s.free else k.repcnt
  | 2 => k.coreCfg c
  | 3 => k.imask
  | 4 => s.ipend c
  | 5 => k.ipc.setWidth 16
  | 6 => k.icst
  | 7 => k.tpc.setWidth 16
  | 8 => k.tcst
  | 9 => k.tcause
  | 10 => k.taddr.setWidth 16
  | 11 => (k.taddr >>> 16).setWidth 16
  | 12 => k.top c
  | 13 => BitVec.ofNat 16 k.depth
  | _ => 0

/-- MVC Gd, Cn. A read of TOS pops, and traps on an empty stack with STKTRAP = 1 (R239). -/
def execFMvcRead (c : CoreId) (d n : BitVec 4) (s : State) : Out :=
  encodable (.fMvcRead c d n) (s.instr c { words := 1 } (fun t =>
    let k := t.core c
    if n = 12 ∧ k.unf = true then .trap 4 0 t
    else
      let k1 := if n = 12 then k.pop c else k
      let t1 := if n = 1 ∧ k.rpt.isSome = true then { t with free := t.free + 1 } else t
      .ok (t1.setCore c (k1.setG d (t.creg c n)))))

/-- A control register written (R226, R227); read-only and reserved numbers ignore it. -/
def Core.writeC (c : CoreId) (n : BitVec 4) (v : Word) (k : Core) : Core :=
  match n.toNat with
  | 0 => ({ k with cst := cstWrite k.cst v k.tact }).delay 1 .cst (k.cst.setWidth 40)
  | 1 => { k with repcnt := v }
  | 2 => { k with bada := k.bada && !bit v 8, thand := bit v 3, stktrap := bit v 2 }
  | 3 => { k with imask := v }
  | 4 => { k with ipend := k.ipend &&& ~~~v }
  | 5 => { k with ipc := v.setWidth 14 }
  | 6 => { k with icst := v }
  | 7 => { k with tpc := v.setWidth 14 }
  | 8 => { k with tcst := v }
  | 12 => k.push c v
  | _ => k

/-- MVC Cn, Gs: one that writes REPCNT is unrepeatable (R241, R262). -/
def execFMvcWrite (c : CoreId) (n r : BitVec 4) (s : State) : Out :=
  encodable (.fMvcWrite c n r) (s.instr c { words := 1, unrep := n == 1 } (fun t =>
    let k := t.core c
    if n = 12 ∧ k.ovf c = true then .trap 3 0 t
    else .ok (t.setCore c (k.writeC c n (k.rg r)))))

/-! ### Interrupt and trap entry (R242 to R247) -/

/-- The lowest-numbered line with both its IPEND and its IMASK bit set. -/
def lineOf (w : Word) : Option Nat := (List.range 16).find? (fun n => bit w n)

/-- Does the course of the core allow an interrupt here (R242)? -/
def Core.boundary (k : Core) : Bool :=
  k.branch.isNone && (match k.rpt with | some r => r.intr && r.started | none => true)

/-- The state an interrupt entry leaves (R244): entry clears the bit of an edge line. -/
def Core.intEntry (line : Nat) (k0 : Core) : Core :=
  let k := k0.flush
  { k with
    ipc := k.pc, icst := k.cst, cst := k.cst &&& 0xEFFF, pc := BitVec.ofNat 14 (0x10 + 2 * line),
    ipend := k.ipend &&& ~~~(bitWord line true),
    repcnt := match k.rpt with | some r => r.left | none => k.repcnt,
    rpt := none }

/-- INTERRUPT_ENTRY (R244); nothing happens where no interrupt can be taken. -/
def execInterruptEntry (c : CoreId) (s : State) : Out :=
  let k := s.core c
  if k.run == .running && k.ie && k.boundary then
    match lineOf (s.ipend c &&& k.imask) with
    | none => .next s
    | some n => .next (s.modCore c (Core.intEntry n))
  else .next s

/-- Can this cause arise on the core now (R245, R247)? An uncorrectable word of program RAM and ECC and ILLEGAL may at
any time; ILLEGAL_REPEAT while a repeat waits; the stack traps with STKTRAP = 1 on a full or an empty stack; BUSERR on
core T only. -/
def State.trapArises (s : State) (c : CoreId) (cause : BitVec 4) : Bool :=
  let k := s.core c
  match cause.toNat with
  | 0 => !c.isT
  | 1 => true
  | 2 => k.rpt.isSome
  | 3 => k.ovf c
  | 4 => k.unf
  | 5 => true
  | 6 => c.isT
  | _ => false

/-- TRAP_ENTRY (R245 to R247): a cause of R245, or 0 for an uncorrectable word fetched from program RAM. -/
def execTrapEntry (c : CoreId) (cause : BitVec 4) (addr : Addr) (s : State) : Out :=
  if (s.core c).run == .running && s.trapArises c cause then .next (s.trap c cause addr) else .next s

/-! ### The instruction at the program counter (R222, R248) -/

/-- The instruction that an application core's program RAM holds at its program counter, which wraps; none where the
words are an undefined encoding. The contents of core T's mask ROM are not given. -/
def State.atPc (s : State) (c : CoreId) : Option Instr :=
  if c.isT then none
  else
    let k := s.core c
    decodeFacet c ((List.range 6).map (fun i => (k.pram.get0 ((k.pc.toNat + i) % 0x4000)).toNat % 0x4000))

end Sys2Proof.Machine
end

