-- ==== Sys2Proof/Machine/Tick.lean ====
section
/-! DEFINITION. The watchdog (R276). -/

namespace Sys2Proof.Machine

open Sys2Proof

/-- Watchdog expiry: safe-hold with cause 0x1 (R276, R277). -/
def State.wdExpire (s : State) : State :=
  if s.sys.wdOn then ({ s with sys := { s.sys with wdLeft := 0 } }).enterSafe 1 else s

/-- One Tick of the watchdog. -/
def State.wdTick (s : State) : State :=
  if s.sys.wdOn then
    (if s.sys.wdLeft.toNat ≤ 1 then s.wdExpire else { s with sys := { s.sys with wdLeft := s.sys.wdLeft - 1 } })
  else s

/-- SYS_WDKICK (R276): the key from every released core since the last restart makes the next restart. -/
def State.wdKick (s : State) (c : CoreId) (v : Word) : State :=
  if v = 0xC35A ∧ c.isT = false then
    let k := s.sys.kicked ||| (((1 : BitVec 6) <<< c.num) &&& s.sys.released)
    if s.sys.wdOn ∧ k = s.sys.released then
      { s with sys := { s.sys with kicked := 0, wdLeft := s.sys.wdTicks } }
    else { s with sys := { s.sys with kicked := k } }
  else s

/-- WATCHDOG_KICK (R276). -/
def execWatchdogKick (c : CoreId) (v : Word) (s : State) : Out := .next (s.wdKick c v)

/-- WATCHDOG_EXPIRY (R276): the last of the WDTICKS Ticks since the last restart has passed. -/
def execWatchdogExpiry (s : State) : Out := .next (if s.sys.wdLeft.toNat ≤ 1 then s.wdExpire else s)

end Sys2Proof.Machine
end

