-- ==== Sys2Proof/Machine/Regs.lean ====
section
/-! DEFINITION. The register page: every register's read and write, snapshots, read-clear counters, and the queue and
SYS registers' commands (20_register_map). Addresses are offsets in the page 0xFF_0000 to 0xFF_FFFF. -/

namespace Sys2Proof.Machine

open Sys2Proof

/-! ### Reads, block by block -/

/-- The TMON information area (R275), by offset from 0xFF_0200. -/
def State.infoWord (s : State) (i : Nat) : Word :=
  if i ≤ 82 then (match s.region with | some r => r.getD i 0 | none => 0)
  else if i = 0x60 then s.sys.dutyFrm.setWidth 16
  else if i = 0x61 then (s.sys.dutyFrm >>> 16).setWidth 16
  else if 0x62 ≤ i ∧ i ≤ 0x69 then s.sys.dutyTot.getD (i - 0x62) 0
  else if i = 0x70 then s.aon.boot
  else if i = 0x71 then s.tmonVer
  else if i = 0x72 then BitVec.ofNat 16 s.otp.svn
  else if i = 0x73 then place s.aon.resetCause.toNat 4 ||| s.img.slot.setWidth 16
  else if i = 0x74 then s.img.version.setWidth 16
  else if i = 0x75 then (s.img.version >>> 16).setWidth 16
  else 0

/-- SYS (R440 to R442, R269, R275, R276). Core T has no mailbox of its own. -/
def State.readSys (s : State) (c : CoreId) (a : Nat) : Word :=
  let k := s.core c
  if a = 0 then 0x9640
  else if a = 1 then 0x00B0
  else if a = 0x11 then (if c.isT then 0 else bitWord 15 k.busy ||| bitWord 14 k.dup)
  else if a = 0x13 then place s.sys.kicked.toNat 8
  else if a = 0x14 then s.sys.wdLeft
  else if 0x20 ≤ a ∧ a < 0x28 then k.qevsel.toList.getD (a - 0x20) 0
  else if 0x100 ≤ a ∧ a < 0x110 then (if c.isT then 0 else k.mbox.toList.getD (a - 0x100) 0)
  else if 0x200 ≤ a ∧ a < 0x276 then s.infoWord (a - 0x200)
  else 0

/-- CLK (R13, R14). -/
def State.readClk (s : State) (a : Nat) : Word :=
  if a = 0x400 then bitWord 15 s.clk.lock ||| bitWord 14 s.clk.lol ||| bitWord 13 s.tickFromRef ||| bitWord 12 s.clk.xordy
  else if a = 0x401 then s.clk.outCfg
  else 0

/-- PWR (R392). -/
def State.readPwr (s : State) (a : Nat) : Word :=
  match a - 0x800 with
  | 0 => place s.pwr.ctl.toNat 14
  | 1 => s.pwr.stat
  | 2 => s.pwr.wakecfg
  | 3 => s.pwr.bankcfg.setWidth 16
  | 6 => s.pwr.domstat
  | 7 => s.pwr.bankOn.setWidth 16
  | 8 => s.pwr.planPtr.setWidth 16
  | 9 => (s.pwr.planPtr >>> 16).setWidth 16
  | _ => 0

/-- SEQ_STAT (R51). -/
def Seq.stat (q : Seq) : Word :=
  bitWord 15 q.pend.isSome ||| bitWord 14 q.planRej ||| bitWord 13 q.ppsLock ||| bitWord 12 q.holdover |||
    bitWord 11 q.stepPend ||| bitWord 10 q.cycPend.isSome ||| bitWord 9 q.rotPend.isSome ||| q.slot.setWidth 16

/-- SEQ_RSTAT (R213). -/
def Seq.rstat (q : Seq) : Word :=
  place q.rstate.toNat 14 ||| bitWord 13 q.orphan ||| bitWord 12 q.safeUp ||| q.miss.setWidth 16

/-- SEQ (R38, R43, R49, R51, R213); the snapshot registers are those of the reader. -/
def State.readSeq (s : State) (c : CoreId) (a : Nat) : Word :=
  let n := (s.core c).snap
  match a - 0x1000 with
  | 0x0 => s.seq.frame.setWidth 16
  | 0x1 => n.frameh
  | 0x2 => n.fic
  | 0x3 => n.cir
  | 0x4 => n.rot
  | 0x5 => s.seq.stat
  | 0x6 => s.seq.cycLen.setWidth 16
  | 0x7 => s.seq.rotLen.setWidth 16
  | 0x8 => s.seq.arm.setWidth 16
  | 0xB => bitWord 15 s.seq.ppsen
  | 0xC => s.seq.step.setWidth 16
  | 0xD => n.steph
  | 0xE => s.seq.rstat
  | 0xF => s.seq.roffs
  | _ => 0

/-- RXW (R139, R144, R147). -/
def State.readRxw (s : State) (a : Nat) : Word :=
  match a - 0x2000 with
  | 0 => s.rxw.cen0.setWidth 16
  | 1 => (s.rxw.cen0 >>> 16).setWidth 16
  | 2 => s.rxw.cen1.setWidth 16
  | 3 => (s.rxw.cen1 >>> 16).setWidth 16
  | 4 => s.rxw.agcA
  | 5 => s.rxw.agcB
  | 6 => s.rxw.gainWord
  | 7 => bitWord 15 s.rxw.clipA ||| bitWord 14 s.rxw.clipB
  | 8 => s.rxw.msel
  | 9 => s.mdata
  | _ => 0

/-- LANE (R157). -/
def State.readLane (s : State) (a : Nat) : Word :=
  let i := a - 0x3000
  if i < 0x80 then s.lane.cfg.get0 i
  else match i with
    | 0x80 => s.lane.bufq
    | 0x81 => s.lane.filt
    | 0x82 => s.lane.own
    | 0x83 => s.lane.dropc
    | 0x84 => s.lane.hdrc
    | 0x85 => s.lane.filtc
    | _ => 0

/-- TX (R167, R170, R175). -/
def State.readTx (s : State) (a : Nat) : Word :=
  match a - 0x4000 with
  | 0 => s.tx.cfg
  | 1 => bitWord 15 s.tx.regLock ||| bitWord 14 s.tx.extPa ||| bitWord 13 s.tx.txOn ||| place s.tx.range.toNat 10
  | 2 => bitWord 15 s.powerHeld ||| s.tx.pwr.setWidth 16
  | 3 => s.tx.resDrop
  | _ => 0

/-- SYN (R166). CALBUSY shows the calibration engine's SYN step alone: the table's "a calibration step is running" does not
say which steps, nor whether the full calibration of a start counts (DESIGN CHOICE, log entry 41). -/
def State.readSyn (s : State) (a : Nat) : Word :=
  match a - 0x4800 with
  | 0 => bitWord 15 s.syn.lock ||| bitWord 14 (s.stepRuns.any (fun x => x.part == .syn)) ||| bitWord 13 s.syn.on ||| bitWord 12 s.syn.unlk |||
      s.syn.idx.setWidth 16
  | 1 => s.syn.tidx.setWidth 16
  | 2 => s.syn.table.get0 (2 * s.syn.tidx.toNat)
  | 3 => s.syn.table.get0 (2 * s.syn.tidx.toNat + 1)
  | _ => 0

/-- The number of a part in CAL_STAT.PART. -/
def partNum : CalPart → Nat
  | .adc => 1 | .lna => 2 | .txiq => 3 | .lol => 4 | .syn => 5 | .padet => 6

/-- CAL_STAT, with the step that runs (log entry 40). -/
def State.calStat (s : State) : Word :=
  let c := s.cal
  let up := c.steps.filter (fun x => x.powerUp && decide (s.now < x.stop))
  let ps : List CalPart := match c.run with
    | some r => (r.pend ++ r.again).map (fun (x : CalPart × Bool) => x.1)
    | none => up.map (fun (x : CalStep) => x.part)
  let st := match s.stepRuns with
    | some x => bitWord 13 true ||| place (partNum x.part) 10 ||| bitWord 9 x.antB
    | none => 0
  bitWord 15 (c.run.isSome || !up.isEmpty) ||| bitWord 14 c.moving ||| st ||| bitWord 8 (c.estNewA || c.estNewB) |||
    BitVec.ofNat 16 (maskOf (ps.map CalPart.bit))

/-- CAL (18_calibration). -/
def State.readCal (s : State) (a : Nat) : Word :=
  let e := s.cal.esel.toNat
  match a - 0x5000 with
  | 0x0 => s.cal.cfg
  | 0x2 => s.calStat
  | 0x3 => bitWord 15 s.tempHeld ||| s.cal.temp.setWidth 16
  | 0x4 => s.cal.tref.setWidth 16
  | 0x5 => bitWord 15 s.tempHeld ||| s.cal.vpa.setWidth 16
  | 0x6 => s.cal.esel
  | 0x7 => if e < 84 then BitVec.ofInt 16 (elemGet s.cal.app e) else 0
  | 0x8 => if e < 84 then BitVec.ofInt 16 (elemGet s.cal.tgt e) else 0
  | 0x9 => s.cal.qspur
  | 0xA => s.cal.qskew
  | 0xB => s.cal.qimg
  | 0xC => s.cal.qlol
  | 0xD => BitVec.ofNat 16 (s.syn.margin % 64)
  | _ => 0

/-- QUE_STATn (R376). -/
def Queue.stat (q : Queue) : Word :=
  bitWord 15 q.empty ||| bitWord 14 q.full ||| bitWord 13 q.under ||| bitWord 12 q.ovr ||| bitWord 11 q.poisoned

/-- QUE (R370 to R376), apart from the pop of QUE_DATA. -/
def State.readQue (s : State) (c : CoreId) (a : Nat) : Word :=
  let i := a - 0x6000
  let q := s.queue (BitVec.ofNat 5 i)
  if i = 0x100 then (s.core c).lpop
  else if i = 0x101 then bitWord 15 s.que.cfgErr ||| BitVec.ofNat 16 s.que.free
  else if 0x100 ≤ i then 0
  else match i / 0x20 with
    | 0 => q.base.setWidth 16
    | 1 => bitWord 15 q.en ||| q.sizeM1.setWidth 16
    | 3 => if q.en then BitVec.ofNat 16 q.depth else 0
    | 4 => q.stat
    | 5 => q.cec
    | 6 => q.last
    | 7 => q.thr
    | _ => 0

/-- Is the transmit queue of a UART empty: AFW's lines, where it is the queue that AFW named, else the words of the queue? A
queue that is off is empty (R371). -/
def State.txIdle (s : State) (u : Uart) (own : BitVec 5) : Bool :=
  let q := s.queue (txq u.cfg)
  if txq u.cfg = own then !q.en || (u.l.out.isEmpty && q.empty) else q.empty

/-- PORTx_STAT (R343): characters are received whole, so RXIDLE reads 1. -/
def State.uartStat (s : State) (u : Uart) (own : BitVec 5) : Word :=
  bitWord 15 true ||| bitWord 14 (s.txIdle u own) ||| bitWord 13 u.brk |||
    bitWord 12 u.ferr ||| bitWord 11 u.rxOvr

def State.readUart (s : State) (u : Uart) (own : BitVec 5) (i : Nat) : Word :=
  match i with
  | 0 => u.cfg
  | 1 => u.div
  | 2 => s.uartStat u own
  | 3 => (u.ferrc.setWidth 16 <<< 8) ||| u.ovrc.setWidth 16
  | _ => 0

/-- PORTS (R351). -/
def State.readPorts (s : State) (i : Nat) : Word :=
  let p := s.ports
  match i with
  | 0 => p.cfg
  | 1 => p.status.setWidth 16
  | 2 => p.txavl
  | 4 => place p.fragc.toNat 12 ||| place p.shortc.toNat 8 ||| place p.ovrc.toNat 4 ||| p.xtrac.setWidth 16
  | _ => 0

/-- PORTM (R357). -/
def State.readPortm (s : State) (i : Nat) : Word :=
  let p := s.portm
  match i with
  | 1 => bitWord 15 p.run.isSome ||| bitWord 14 p.pend.isSome ||| bitWord 13 p.held.isSome ||| bitWord 12 p.err
  | 2 => p.cfg
  | 3 => p.dly
  | 4 => p.gap
  | 5 => p.txal
  | 6 => p.txah
  | 7 => p.rxal
  | 8 => p.rxah
  | _ => 0

/-- TIMEP (R362). -/
def State.readTimep (s : State) (c : CoreId) (i : Nat) : Word :=
  let p := s.timep
  match i with
  | 0 => p.cfg
  | 1 => p.ppsCnt
  | 2 => p.ts.setWidth 16
  | 3 => (s.core c).snap.ppsTsh
  | 4 => bitWord 15 p.short ||| bitWord 14 p.brk ||| bitWord 13 p.ferr ||| bitWord 12 p.rxOvr
  | _ => 0

/-- ECC (R369). -/
def State.readEcc (s : State) (c : CoreId) (i : Nat) : Word :=
  let k := s.core c
  if i < 8 then s.ecc.cec.toList.getD i 0
  else match i with
    | 0x8 => ((if c.isT then 0 else k.pcec.setWidth 16) <<< 8) ||| k.lcec.setWidth 16
    | 0x9 => bitWord 15 s.ecc.ue ||| bitWord 14 s.ecc.ueDma ||| bitWord 13 s.ecc.ueQ
    | 0xA => s.ecc.uaddr.setWidth 16
    | 0xB => k.snap.uaddrh
    | _ => 0

/-- The value a register read returns, without its effect; unassigned addresses read 0 (R433). -/
def State.regValue (s : State) (c : CoreId) (a : Nat) : Word :=
  if a < 0x400 then s.readSys c a
  else if a < 0x800 then s.readClk a
  else if a < 0x1000 then s.readPwr a
  else if a < 0x1400 then s.readSeq c a
  else if a < 0x2000 then 0
  else if a < 0x3000 then s.readRxw a
  else if a < 0x4000 then s.readLane a
  else if a < 0x4400 then s.readTx a
  else if a < 0x4800 then 0
  else if a < 0x5000 then s.readSyn a
  else if a < 0x6000 then s.readCal a
  else if a < 0x7000 then s.readQue c a
  else if a < 0x7100 then s.readUart s.porta (afwTxq .a) (a - 0x7000)
  else if a < 0x7200 then s.readUart s.portb (afwTxq .b) (a - 0x7100)
  else if a < 0x7300 then s.readPorts (a - 0x7200)
  else if a < 0x7400 then s.readPortm (a - 0x7300)
  else if a < 0x8000 then s.readTimep c (a - 0x7400)
  else if 0xA000 ≤ a ∧ a < 0xB000 then s.readEcc c (a - 0xA000)
  else 0

/-! ### Read effects (R432, R437, R378) -/

/-- SEQ_FRAMEL captures the companions (R51). -/
def State.captureFrame (s : State) (c : CoreId) : State :=
  s.modCore c (fun k => { k with snap := { k.snap with
    frameh := (s.seq.frame >>> 16).setWidth 16, fic := s.seq.fic, cir := s.seq.cir, rot := s.seq.rot } })

def State.captureStep (s : State) (c : CoreId) : State :=
  s.modCore c (fun k => { k with snap := { k.snap with steph := (s.seq.step >>> 16).setWidth 16 } })

def State.capturePps (s : State) (c : CoreId) : State :=
  s.modCore c (fun k => { k with snap := { k.snap with ppsTsh := (s.timep.ts >>> 16).setWidth 16 } })

def State.captureUaddr (s : State) (c : CoreId) : State :=
  s.modCore c (fun k => { k with snap := { k.snap with
    uaddrh := place s.ecc.ureq.toNat 13 ||| (s.ecc.uaddr >>> 16).setWidth 16 } })

/-- The read-clear registers (R432): LANE, TX, QUE, port and ECC counters. -/
def isReadClear (a : Nat) : Bool :=
  (0x3083 ≤ a && a ≤ 0x3085) || a == 0x4003 || (0x60A0 ≤ a && a < 0x60C0) || a == 0x7003 || a == 0x7103 ||
    a == 0x7204 || (0xA000 ≤ a && a ≤ 0xA008)

/-- Clear a read-clear register for its reader. -/
def State.clearRc (s : State) (c : CoreId) (a : Nat) : State :=
  if a = 0x3083 then { s with lane := { s.lane with dropc := 0 } }
  else if a = 0x3084 then { s with lane := { s.lane with hdrc := 0 } }
  else if a = 0x3085 then { s with lane := { s.lane with filtc := 0 } }
  else if a = 0x4003 then { s with tx := { s.tx with resDrop := 0 } }
  else if 0x60A0 ≤ a ∧ a < 0x60C0 then
    let n := BitVec.ofNat 5 a
    s.setQueue n { (s.queue n) with cec := 0 }
  else if a = 0x7003 then { s with porta := { s.porta with ferrc := 0, ovrc := 0 } }
  else if a = 0x7103 then { s with portb := { s.portb with ferrc := 0, ovrc := 0 } }
  else if a = 0x7204 then { s with ports := { s.ports with fragc := 0, shortc := 0, ovrc := 0, xtrac := 0 } }
  else if 0xA000 ≤ a ∧ a < 0xA008 then { s with ecc := { s.ecc with cec := s.ecc.cec.setIfInBounds (a - 0xA000) 0 } }
  else if a = 0xA008 then s.modCore c (fun k => { k with pcec := 0, lcec := 0 })
  else s

/-- A register read: the value and the state after its effect. -/
def State.regRead (s : State) (c : CoreId) (a : Nat) : Word × State :=
  if 0x6040 ≤ a ∧ a < 0x6060 then s.corePop c (BitVec.ofNat 5 a)
  else
    let v := s.regValue c a
    (v, if isReadClear a then s.clearRc c a
        else if a = 0x1000 then s.captureFrame c
        else if a = 0x100C then s.captureStep c
        else if a = 0x7402 then s.capturePps c
        else if a = 0xA00A then s.captureUaddr c
        else if a = 0x2009 ∧ bit s.rxw.msel 15 = true then { s with free := s.free + 1 }
        else s)

/-! ### Writes, block by block -/

/-- SYS_SOFT (R441): writes by core T and the writer's own bit are ignored. -/
def State.softWrite (s : State) (c : CoreId) (v : Word) : State :=
  if c.isT then s
  else s.modCores (CoreId.apps.filter (fun d => d != c && bit v d.num)) (Core.raise (4 + field v 15 14))

/-- SYS_QEVSELk (R442): COND = 3 is ignored as a whole. -/
def State.qevsel (s : State) (c : CoreId) (k : BitVec 3) (v : Word) : State :=
  if field v 13 12 = 3 then s
  else s.modCore c (fun q => { q with qevsel := q.qevsel.set k.toNat (v &&& 0xF01F) k.isLt })

/-- RING of SYS_SCDOOR (R269): a second RING is ignored and sets DUP. -/
def State.ring (s : State) (c : CoreId) (v : Word) : State :=
  if c.isT || !bit v 0 then s
  else s.modCore c (fun k => if k.busy then { k with dup := true } else { k with busy := true })

def State.writeSys (s : State) (c : CoreId) (a : Nat) (v : Word) : State :=
  if a = 0x10 then s.ring c v
  else if a = 0x11 then s.modCore c (fun k => { k with dup := k.dup && !bit v 14 })
  else if a = 0x12 then s.wdKick c v
  else if a = 0x18 then s.softWrite c v
  else if 0x20 ≤ a ∧ a < 0x28 then s.qevsel c (BitVec.ofNat 3 a) v
  else if 0x100 ≤ a ∧ a < 0x110 ∧ c.isT = false then
    s.modCore c (fun k => if k.busy then k else { k with mbox := k.mbox.setIfInBounds (a - 0x100) v })
  else s

def State.writePwr (s : State) (c : CoreId) (a : Nat) (v : Word) : State :=
  match a - 0x800 with
  | 0 => s.pwrCtl (field v 15 14)
  | 1 => { s with pwr := { s.pwr with resume := s.pwr.resume && !bit v 13 } }
  | 2 => { s with pwr := { s.pwr with wakecfg := v &&& 0xFC00 } }
  | 3 => { s with pwr := { s.pwr with bankcfg := v.setWidth 8 } }
  | 4 => s.pwrBankoff v
  | 5 => s.pwrIdle c v
  | 8 => { s with pwr := { s.pwr with planPtr := BitVec.ofNat 24 (s.pwr.planPtr.toNat / 65536 * 65536 + v.toNat) } }
  | 9 => { s with pwr := { s.pwr with planPtr := BitVec.ofNat 24 (field v 7 0 * 65536 + s.pwr.planPtr.toNat % 65536) } }
  | _ => s

def State.writeSeq (s : State) (a : Nat) (v : Word) : State :=
  match a - 0x1000 with
  | 0x5 => { s with seq := { s.seq with planRej := s.seq.planRej && !bit v 14 } }
  | 0x6 => s.cyclen v
  | 0x7 => s.rotlen v
  | 0x9 => s.armSet v
  | 0xA => s.armClr v
  | 0xB => { s with seq := { s.seq with ppsen := bit v 15 } }
  | _ => s

/-- The CEN registers are written by core T alone (R139, R268). -/
def State.writeRxw (s : State) (c : CoreId) (a : Nat) (v : Word) : State :=
  let lo (w : Addr) : Addr := BitVec.ofNat 24 (w.toNat / 65536 * 65536 + v.toNat)
  let hi (w : Addr) : Addr := BitVec.ofNat 24 (field v 7 0 * 65536 + w.toNat % 65536)
  match a - 0x2000 with
  | 0 => if c.isT then { s with rxw := { s.rxw with cen0 := lo s.rxw.cen0 } } else s
  | 1 => if c.isT then { s with rxw := { s.rxw with cen0 := hi s.rxw.cen0 } } else s
  | 2 => if c.isT then { s with rxw := { s.rxw with cen1 := lo s.rxw.cen1 } } else s
  | 3 => if c.isT then { s with rxw := { s.rxw with cen1 := hi s.rxw.cen1 } } else s
  | 4 => s.agcCfg .a v
  | 5 => s.agcCfg .b v
  | 7 => { s with rxw := { s.rxw with clipA := s.rxw.clipA && !bit v 15, clipB := s.rxw.clipB && !bit v 14 } }
  | 8 => { s with rxw := { s.rxw with msel := v &&& 0xE0FF } }
  | _ => s

def State.writeLane (s : State) (a : Nat) (v : Word) : State :=
  let i := a - 0x3000
  if i < 0x80 then { s with lane := { s.lane with cfg := s.lane.cfg.set0 i (v &&& 0xC01F) } }
  else match i with
    | 0x80 => { s with lane := { s.lane with bufq := v &&& 0x001F } }
    | 0x81 => { s with lane := { s.lane with filt := v &&& 0x8000 } }
    | 0x82 => { s with lane := { s.lane with own := v } }
    | _ => s

def State.writeSyn (s : State) (a : Nat) (v : Word) : State :=
  match a - 0x4800 with
  | 0 => { s with syn := { s.syn with unlk := s.syn.unlk && !bit v 12 } }
  | 1 => { s with syn := { s.syn with tidx := v.setWidth 9 } }
  | 4 => s.synInval v
  | _ => s

def State.writeCal (s : State) (a : Nat) (v : Word) : State :=
  match a - 0x5000 with
  | 0 => s.calCfg v
  | 1 => s.calCmd v
  | 6 => { s with cal := { s.cal with esel := v &&& 0x007F } }
  | _ => s

/-- QUE (R370, R372, R376). -/
def State.writeQue (s : State) (a : Nat) (v : Word) : State :=
  let i := a - 0x6000
  let n := BitVec.ofNat 5 i
  if i = 0x101 then { s with que := { s.que with cfgErr := s.que.cfgErr && !bit v 15 } }
  else if 0x100 ≤ i then s
  else match i / 0x20 with
    | 0 => s.queBase n v
    | 1 => s.queCfg n v
    | 2 => s.qpush n v
    | 4 =>
      let q := s.queue n
      s.setQueue n { q with under := q.under && !bit v 13, ovr := q.ovr && !bit v 12,
                            poisoned := q.poisoned && !bit v 11 }
    | 7 => s.setQueue n { (s.queue n) with thr := v }
    | _ => s

/-- PORTx_CFG, STAT (R343). -/
def State.writeUart (s : State) (portB : Bool) (i : Nat) (v : Word) : State :=
  let f (u : Uart) : Uart :=
    match i with
    | 0 => { u with cfg := v &&& 0xE3FF }
    | 2 => { u with brk := u.brk && !bit v 13, ferr := u.ferr && !bit v 12, rxOvr := u.rxOvr && !bit v 11 }
    | _ => u
  if i = 1 then s.portDiv portB v
  else if portB then { s with portb := f s.portb } else { s with porta := f s.porta }

/-- PORTS (R351). -/
def State.writePorts (s : State) (i : Nat) (v : Word) : State :=
  match i with
  | 0 => { s with ports := { s.ports with cfg := v &&& 0xC3FF } }
  | 1 => { s with ports := { s.ports with sbReady := bit v 7, sbBusy := bit v 6, sbEvt := bit v 4, sbSafe := bit v 3 } }
  | 3 => s.portsTxadd v
  | _ => s

/-- PORTM (R354 to R357). -/
def State.writePortm (s : State) (c : CoreId) (i : Nat) (v : Word) : State :=
  let p := s.portm
  match i with
  | 0 => s.portmCmd c v
  | 1 => { s with portm := { p with err := p.err && !bit v 12 } }
  | 2 => { s with portm := { p with cfg := v &&& 0xE07F } }
  | 3 => { s with portm := { p with dly := v } }
  | 4 => { s with portm := { p with gap := v &&& 0x03FF } }
  | 5 => { s with portm := { p with txal := v } }
  | 6 => { s with portm := { p with txah := v &&& 0x80FF } }
  | 7 => { s with portm := { p with rxal := v } }
  | 8 => { s with portm := { p with rxah := v &&& 0x80FF } }
  | _ => s

def State.writeTimep (s : State) (i : Nat) (v : Word) : State :=
  let p := s.timep
  match i with
  | 0 => { s with timep := { p with cfg := v &&& 0x83FF } }
  | 4 => { s with timep := { p with short := p.short && !bit v 15, brk := p.brk && !bit v 14,
                                    ferr := p.ferr && !bit v 13, rxOvr := p.rxOvr && !bit v 12 } }
  | _ => s

def State.writeEcc (s : State) (i : Nat) (v : Word) : State :=
  if i = 9 then { s with ecc := { s.ecc with ue := s.ecc.ue && !bit v 15, ueDma := s.ecc.ueDma && !bit v 14,
                                             ueQ := s.ecc.ueQ && !bit v 13 } }
  else s

/-- A register write; read-only and unassigned addresses ignore it (R432, R433). -/
def State.regWrite (s : State) (c : CoreId) (a : Nat) (v : Word) : State :=
  if a < 0x400 then s.writeSys c a v
  else if a = 0x400 then { s with clk := { s.clk with lol := s.clk.lol && !bit v 14 } }
  else if a = 0x401 then s.clkOutcfg v
  else if a < 0x800 then s
  else if a < 0x1000 then s.writePwr c a v
  else if a < 0x1400 then s.writeSeq a v
  else if a < 0x2000 then s
  else if a < 0x3000 then s.writeRxw c a v
  else if a < 0x4000 then s.writeLane a v
  else if a = 0x4000 then s.txCfg v
  else if a < 0x4800 then s
  else if a < 0x5000 then s.writeSyn a v
  else if a < 0x6000 then s.writeCal a v
  else if a < 0x7000 then s.writeQue a v
  else if a < 0x7100 then s.writeUart false (a - 0x7000) v
  else if a < 0x7200 then s.writeUart true (a - 0x7100) v
  else if a < 0x7300 then s.writePorts (a - 0x7200) v
  else if a < 0x7400 then s.writePortm c (a - 0x7300) v
  else if a < 0x8000 then s.writeTimep (a - 0x7400) v
  else if 0xA000 ≤ a ∧ a < 0xB000 then s.writeEcc (a - 0xA000) v
  else s

/-! ### TMON-only blocks (R268, R431, R444) -/

/-- Blocks that only core T reaches. -/
def tmonOnly (a : Nat) : Bool :=
  (0x1400 ≤ a && a < 0x1800) || (0x4400 ≤ a && a < 0x4800) || (0x8000 ≤ a && a < 0xA000) || (0xB000 ≤ a && a < 0xC000)

/-- Accesses that the firewall forbids for writing: the blocks, and the write side of the CEN registers (R268). -/
def tmonOnlyWrite (a : Nat) : Bool := tmonOnly a || (0x2000 ≤ a && a < 0x2004)

def State.setBada (s : State) (c : CoreId) : State := s.modCore c (fun k => { k with bada := true })

/-- A read of the register page: a TMON-only block reads 0 and sets BADA on an application core; on core T its
registers are not described, and the value is free (R444). An access to a radio block wakes its domains and waits for
none (R388, R434, log entry 38). -/
def State.pageRead (s : State) (c : CoreId) (a : Nat) : Word × State :=
  if tmonOnly a then (if c.isT then s.takeFree else (0, s.setBada c)) else (s.wakeRadio a).regRead c a

/-- A write of the register page. -/
def State.pageWrite (s : State) (c : CoreId) (a : Nat) (v : Word) : State :=
  if tmonOnlyWrite a ∧ c.isT = false then s.setBada c
  else if tmonOnly a then s
  else (s.wakeRadio a).regWrite c a v

/-! ### Meanings -/

/-- REGISTER_WRITE (R432 to R435). -/
def execRegisterWrite (c : CoreId) (a v : Word) (s : State) : Out := .next (s.pageWrite c a.toNat v)

/-- READ_CLEAR (R432, R377): a read of a read-clear register; other addresses have none to clear. -/
def execReadClear (c : CoreId) (a : Word) (s : State) : Out :=
  if isReadClear a.toNat then .next ((s.wakeRadio a.toNat).clearRc c a.toNat) else .next s

/-- SEQ_FRAMEL_READ (R51). -/
def execSeqFramelRead (c : CoreId) (s : State) : Out := .next (s.captureFrame c)

/-- SEQ_STEPL_READ (R51). -/
def execSeqSteplRead (c : CoreId) (s : State) : Out := .next (s.captureStep c)

/-- TIMEP_PPSTSL_READ (R378). -/
def execTimepPpstslRead (c : CoreId) (s : State) : Out := .next (s.capturePps c)

/-- ECC_UADDRL_READ (R378). -/
def execEccUaddrlRead (c : CoreId) (s : State) : Out := .next (s.captureUaddr c)

/-- QUEUE_PUSH: a write of QUE_DATAn (R372). -/
def execQueuePush (_c : CoreId) (n : BitVec 5) (v : Word) (s : State) : Out := .next (s.qpush n v)

/-- QUEUE_POP: a read of QUE_DATAn (R372, R373). -/
def execQueuePop (c : CoreId) (n : BitVec 5) (s : State) : Out := .next (s.corePop c n).2

/-- QUE_CFG_WRITE (R370). -/
def execQueCfgWrite (n : BitVec 5) (v : Word) (s : State) : Out := .next (s.queCfg n v)

/-- QUE_BASE_WRITE (R370). -/
def execQueBaseWrite (n : BitVec 5) (v : Word) (s : State) : Out := .next (s.queBase n v)

/-- SYS_SOFT_WRITE (R441). -/
def execSysSoftWrite (c : CoreId) (v : Word) (s : State) : Out := .next (s.softWrite c v)

/-- SYS_QEVSEL_WRITE (R442). -/
def execSysQevselWrite (c : CoreId) (k : BitVec 3) (v : Word) (s : State) : Out := .next (s.qevsel c k v)

end Sys2Proof.Machine
end

