-- ==== Sys2Proof/Machine/FacetMem.lean ====
section
/-! DEFINITION. Data memory as the cores see it, and LD, ST, LDD and STD (R232 to R234, R245, R258, R363, R366 to R369). -/

namespace Sys2Proof.Machine

open Sys2Proof

/-! ### One data access -/

/-- Where an address leads (R232, R363). -/
inductive Place where
  | sram (a : Nat)
  | forbidden
  | lram (a : Nat)
  | page (a : Nat)
  | unmapped
  deriving DecidableEq, Repr

/-- The address map of a core. -/
def placeOf (c : CoreId) (a : Addr) : Place :=
  let n := a.toNat
  if n < sramEnd then (if keyBase ≤ n ∧ c.isT = false then .forbidden else .sram n)
  else if 0xC00000 ≤ n ∧ n < 0xC00000 + (if c.isT then 0x4000 else 0x1000) then .lram (n - 0xC00000)
  else if 0xFF0000 ≤ n then .page (n - 0xFF0000)
  else if c.isT then .unmapped else .forbidden

/-- What a data access came to: a word and a state, or a trap. -/
inductive Access where
  | ok (v : Word) (s : State)
  | trap (cause : BitVec 4) (addr : Addr) (s : State)
  deriving DecidableEq, Repr

/-- Bank of an address that core T may meet powered down or draining; an application core's access waits for the drain and
wakes the bank (R233, R389, R392). -/
def State.bankDown (s : State) (c : CoreId) (n : Nat) : Bool :=
  c.isT && (!s.pwr.bankOn.getLsbD (bankOf n) || s.drains (bankOf n))

/-- A corrected single-bit error of local RAM counts in ECC_LCEC (R369). -/
def State.countLocal (s : State) (c : CoreId) (n : Nat) : State :=
  s.modCore c (fun k => if k.lramSingle.contains n then { k with lcec := satInc8 k.lcec } else k)

/-- A data read (R232, R245, R367, R369). -/
def State.dataRead (s : State) (c : CoreId) (a : Addr) : Access :=
  match placeOf c a with
  | .sram n =>
    if s.bankDown c n then .trap 6 a s
    else
      let r := (s.settleBank (bankOf n)).eccRead (if c.isT then 6 else c.num) n
      if r.2.1 then .trap 5 a r.2.2 else .ok r.1 r.2.2
  | .forbidden => .ok 0 (s.setBada c)
  | .lram n => if (s.core c).lramBad.contains n then .trap 5 a s else .ok ((s.core c).lram.get0 n) (s.countLocal c n)
  | .page n => let r := s.pageRead c n; .ok r.1 r.2
  | .unmapped => .trap 6 a s

/-- A write of local RAM cures the word it writes. -/
def Core.storeLocal (n : Nat) (v : Word) (k : Core) : Core :=
  { k with
    lram := k.lram.set0 n v
    lramBad := k.lramBad.filter (· != n)
    lramSingle := k.lramSingle.filter (· != n) }

/-- A data write: it never traps for ECC, and a write of a whole local word cures it (R368, R369). -/
def State.dataWrite (s : State) (c : CoreId) (a : Addr) (v : Word) : Access :=
  match placeOf c a with
  | .sram n => if s.bankDown c n then .trap 6 a s else .ok v ((s.settleBank (bankOf n)).wr n v)
  | .forbidden => .ok v (s.setBada c)
  | .lram n => .ok v (s.modCore c (Core.storeLocal n v))
  | .page n => .ok v (s.pageWrite c n v)
  | .unmapped => .trap 6 a s

/-- Both words of a pair, each checked on its own (R258); what the first read corrected and counted stands where the second
one traps (R367, R369). -/
def State.dataRead2 (s : State) (c : CoreId) (a : Addr) : Access × Word :=
  match s.dataRead c a with
  | .trap cause ad t => (.trap cause ad t, 0)
  | .ok lo t =>
    match t.dataRead c (a + 1) with
    | .trap cause ad u => (.trap cause ad u, 0)
    | .ok hi u => (.ok lo u, hi)

/-- A pair at an even address of the ledger SRAM is one access of the whole ECC word (R366, R368). -/
def State.dataWrite2 (s : State) (c : CoreId) (a : Addr) (lo hi : Word) : Access :=
  match placeOf c a with
  | .sram n =>
    if s.bankDown c n then .trap 6 a s
    else if n % 2 = 0 then .ok lo ((s.settleBank (bankOf n)).wrPair n lo hi)
    else
      match s.dataWrite c (a + 1) hi with
      | .trap cause ad _ => .trap cause ad s
      | .ok _ t => .ok lo ((t.settleBank (bankOf n)).wr n lo)
  | _ =>
    match s.dataWrite c a lo with
    | .trap cause ad _ => .trap cause ad s
    | .ok _ t =>
      match t.dataWrite c (a + 1) hi with
      | .trap cause ad _ => .trap cause ad s
      | .ok v u => .ok v u

/-! ### Addressing (R234, R258) -/

/-- The address of a memory operand, from the value of Pn before any update. -/
def Core.addrOf (k : Core) : MemOp → Addr
  | .disp p d _ => k.rp p + d.setWidth 24
  | .inc p => k.rp p
  | .dec p => k.rp p
  | .modify p _ => k.rp p
  | .direct n _ => 0xC00000 + n.setWidth 24

/-- The update of Pn: by 1 or Gk for a word, twice that for a pair. -/
def Core.postUpdate (k : Core) (m : MemOp) (pair : Bool) : Option (BitVec 3 × Addr) :=
  let n : Addr := if pair then 2 else 1
  match m with
  | .disp _ _ _ => none
  | .inc p => some (p, k.rp p + n)
  | .dec p => some (p, k.rp p - n)
  | .modify p r => some (p, k.rp p + n * (k.rg r).signExtend 24)
  | .direct _ _ => none

/-- Words of the instruction: one, or two with an EXT prefix. -/
def memWords : MemOp → Nat
  | .disp _ _ ext => if ext then 2 else 1
  | .direct _ ext => if ext then 2 else 1
  | .inc _ => 1
  | .dec _ => 1
  | .modify _ _ => 1

/-- Write the update of Pn. While an MVP of the same register is pending, which of the two values stands is not
stated: a free value (log entry 16). -/
def State.applyUpdate (s : State) (c : CoreId) (u : Option (BitVec 3 × Addr)) : State :=
  match u with
  | none => s
  | some (p, v) =>
    if (s.core c).pending.any (fun w => w.dst == PendDst.p p) then
      let t := s.modCore c (fun k =>
        ({ k with pending := k.pending.filter (fun w => w.dst != PendDst.p p) }).setP p (Config.freeAddr s.free))
      { t with free := t.free + 1 }
    else s.modCore c (fun k => k.setP p v)

/-! ### Meanings (R258) -/

/-- LD: the destination is written under the load distance (R235). -/
def execFLd (c : CoreId) (d : BitVec 4) (m : MemOp) (s : State) : Out :=
  encodable (.fLd c d m) (s.instr c { words := memWords m } (fun t =>
    let k := t.core c
    match t.dataRead c (k.addrOf m) with
    | .trap cause a u => .trap cause a u
    | .ok v u => .ok ((u.applyUpdate c (k.postUpdate m false)).modCore c
        (fun q => q.delay 2 (.g d) (v.setWidth 40)))))

/-- ST. -/
def execFSt (c : CoreId) (r : BitVec 4) (m : MemOp) (s : State) : Out :=
  encodable (.fSt c r m) (s.instr c { words := memWords m } (fun t =>
    let k := t.core c
    match t.dataWrite c (k.addrOf m) (k.rg r) with
    | .trap cause a u => .trap cause a u
    | .ok _ u => .ok (u.applyUpdate c (k.postUpdate m false))))

/-- LDD: the pair at a and a + 1; a k of 0 is an undefined encoding (R248). -/
def execFLdd (c : CoreId) (k : BitVec 3) (m : MemOp) (s : State) : Out :=
  encodable (.fLdd c k m) (s.instr c { words := memWords m } (fun t =>
    if k = 0 then .trap 1 0 t
    else
      let q := t.core c
      match t.dataRead2 c (q.addrOf m) with
      | (.trap cause a u, _) => .trap cause a u
      | (.ok lo u, hi) => .ok ((u.applyUpdate c (q.postUpdate m true)).modCore c
          (fun q => (q.delay 2 (.g (pairLo k)) (lo.setWidth 40)).delay 2 (.g (pairHi k)) (hi.setWidth 40)))))

/-- STD. -/
def execFStd (c : CoreId) (k : BitVec 3) (m : MemOp) (s : State) : Out :=
  encodable (.fStd c k m) (s.instr c { words := memWords m } (fun t =>
    if k = 0 then .trap 1 0 t
    else
      let q := t.core c
      match t.dataWrite2 c (q.addrOf m) (q.rg (pairLo k)) (q.rg (pairHi k)) with
      | .trap cause a u => .trap cause a u
      | .ok _ u => .ok (u.applyUpdate c (q.postUpdate m true))))

end Sys2Proof.Machine
end

