-- ==== Sys2Proof/Machine/Command.lean ====
section
/-! DEFINITION. How a Mustix command is begun and answered: availability, busy, refusals, order answers
(R65, R299, R300, R303, R313, R314, R319). -/

namespace Sys2Proof.Machine

open Sys2Proof

/-- `~BUSY` to the line of the command (R303). -/
def State.answerBusy (s : State) : State :=
  let c := s.curLine
  let t := s.putLines c.port [{ cls := none, text := tagged c.tag "~BUSY" }]
  { t with interp := { t.interp with cur := none } }

/-- Begin a command where R313 lets it run; elsewhere it is answered with the code that the table gives. Before the
ports serve lines no command runs (R422), and none while the interpreter stays with a command whose response or GNSS
sentence waits for room (R307, R362). -/
def State.command (s : State) (relayOk testOk : Bool) (body : State → State) : Out :=
  if !s.served || s.interp.gnss.isSome || !s.interp.lines.isEmpty then .next s
  else if s.safe.on then .next (s.err "SAFE_HOLD")
  else if s.busy then .next s.answerBusy
  else if s.isRelay && !relayOk then .next (s.err "WRONG_MODE")
  else if s.seq.testState && !testOk then .next (s.err "WRONG_STATE")
  else .next (body s)

def State.badArg (s : State) : State := s.err "BAD_ARG"

/-- R314: until REGLOCK is 1. -/
def State.unlocked (s : State) : State := s.err "WRONG_STATE region unlocked"

/-- ORDERS_OUTSTANDING with the number of orders, as the example of POWER shows it. -/
def State.outstanding (s : State) : State := s.err ("ORDERS_OUTSTANDING" ++ kvN "out" s.afw.orders.length)

/-- A unit address (R3). -/
def unitOk (u : Nat) : Bool := 1 ≤ u && u ≤ 0xFFFE

/-- Has the unit an outstanding order? -/
def State.unitBusy (s : State) (u : Nat) : Bool := s.afw.orders.any (fun o => o.unit.toNat == u)

/-- A key that is in range when it is given. -/
def optOk (o : Option Nat) (p : Nat → Bool) : Bool := match o with | some v => p v | none => true

def isBit (v : Nat) : Bool := v ≤ 1
def isWord (v : Nat) : Bool := v ≤ 0xFFFF
def isFlow (v : Nat) : Bool := v ≤ 0xFFFFFF
def isLong (v : Nat) : Bool := v ≤ 0xFFFFFFFF

/-- The answer to a rejection of admission (R65, R319). -/
def rejLine (r : Rej) : String :=
  "-ERR " ++ (match r with
    | .tableFull => "TABLE_FULL"
    | .wrongMode => "WRONG_MODE"
    | .unknownUnit none => "UNKNOWN_UNIT"
    | .unknownUnit (some u) => "UNKNOWN_UNIT" ++ kvH "unit" 4 u
    | .noPath u => "NO_PATH" ++ kvH "unit" 4 u
    | .badArg u => "BAD_ARG" ++ kvH "unit" 4 u
    | .noRoom => "NOFIT no room in horizon efd=none"
    | .tooEarly e => "NOFIT deadline too early" ++ kvF "efd" e)

/-- First and last frame of all tries. -/
def triesSpan (ts : List (List Try)) : Nat × Nat :=
  let fs := ts.flatten.map (·.frame)
  (fs.foldl min (fs.headD 0), fs.foldl max 0)

/-- Submit an order and answer it (R64, R319, R461). -/
def State.submit (s : State) (q : OrderReq) : State :=
  match s.admission q with
  | .error r =>
    ({ s with afw := { s.afw with stats := { s.afw.stats with rejected := s.afw.stats.rejected + 1 } } }).respond []
      (rejLine r)
  | .ok (a, t) =>
    let new := t.afw.orders.drop s.afw.orders.length
    let t := new.foldl (fun (t : State) o => t.placeOrder o) t
    let span := triesSpan a.tries
    t.ok (kvH "ticket" 4 a.ticket ++ (if q.grp.isSome then kvN "count" q.members.length else "") ++
      kvN "tries" (q.retries + 1) ++ kvF "first" span.1 ++ kvF "last" span.2)

end Sys2Proof.Machine
end

