-- ==== Sys2Proof/Machine/MxNode.lean ====
section
/-! DEFINITION. NODE, SEG, SHARE and LEDGER with their imports (R66, R111, R186, R188, R190, R206, R209,
R315 to R318). -/

namespace Sys2Proof.Machine

open Sys2Proof

/-! ### Node records (R186, R315) -/

def kindCode : NodeKind → Nat
  | .outlet => 0 | .meter => 1 | .head => 2 | .sensor => 3 | .relay => 4

def kindText (n : Nat) : String :=
  if n = 0 then "OUTLET" else if n = 1 then "METER" else if n = 2 then "HEAD" else if n = 3 then "SENSOR"
  else if n = 4 then "RELAY" else toString n

/-- Words 0 to 11 of a node record. -/
def State.nodeWords (s : State) (u : Nat) : List Word := s.rdN (nodeAddr u) 12

/-- The power of two of a listen period. -/
def log2Of (p : Nat) : Nat := ((List.range 10).find? (fun i => 2 ^ i == p)).getD 0

def periodOk (p : Nat) : Bool := (List.range 10).any (fun i => 2 ^ i == p)

/-- The groups of a record's words 7 to 10. -/
def groupsOf (w : List Word) : List Nat :=
  ((w.drop 7).take 4).filterMap (fun x => if bit x 15 then some (field x 11 0) else none)

def groupWords (gs : List Nat) : List Word :=
  (List.range 4).map (fun i => match gs[i]? with | some g => 0x8000 ||| place g 0 | none => 0)

/-- A record's words with the keys given. -/
def nodeApply (a : NodeArgs) (w : List Word) : List Word :=
  let g (i : Nat) : Word := w.getD i 0
  let put (x : Word) (hi lo : Nat) (o : Option Nat) : Word := match o with | some v => setField x hi lo v | none => x
  let r1 := (a.relay1.getD (g 3).toNat)
  let r2 := (a.relay2.getD (g 4).toNat)
  let depth := if r1 = 0 then 0 else if r2 = 0 then 1 else 2
  let w0 := put (g 0) 14 12 (a.kind.map kindCode)
  let w0 := put w0 7 4 (a.p.map log2Of)
  let w0 := put (put w0 1 0 a.uidx) 9 9 a.wake
  let w0 := if a.p.isSome && a.ph.isSome && a.d.isSome then setBit w0 11 true else w0
  let w0 := setField (setBit w0 15 true) 3 2 depth
  let w6 := match a.seg with | some x => 0x8000 ||| place x 0 | none => g 6
  [w0, put (put (g 1) 15 13 a.d) 8 0 a.ph, put (g 2) 11 0 a.rho, lo16 r1, lo16 r2, put (g 5) 11 0 a.wcode, w6] ++
    (match a.groups with | some gs => groupWords gs | none => (w.drop 7).take 4) ++
    [match a.pinit with | some p => placeB (BitVec.ofInt 8 p) 8 | none => g 11]

/-- A relay address or 0x0000. -/
def relayOk (v : Nat) : Bool := v ≤ 0xFFFE

/-- The ranges of R315 for keys over a record's present words. -/
def nodeArgsOk (a : NodeArgs) (w : List Word) (cycle : Nat) : Bool :=
  let p := a.p.getD (2 ^ field (w.getD 0 0) 7 4)
  let ph := a.ph.getD (field (w.getD 1 0) 8 0)
  optOk a.seg (· ≤ 4095) &&
    (match a.groups with | some gs => decide (gs.length ≤ 4) && gs.all (· ≤ 4095) | none => true) &&
    optOk a.p periodOk && decide (ph < p) && optOk a.d (· ≤ 5) && optOk a.uidx (· ≤ 3) &&
    optOk a.rho (fun v => decide (v < cycle)) && optOk a.relay1 relayOk && optOk a.relay2 relayOk && optOk a.wake isBit &&
    optOk a.wcode (· ≤ 0xFFF) && (match a.pinit with | some v => decide (-128 ≤ v) && decide (v ≤ 127) | none => true)

/-- What R66 protects: the listen pattern and the relay path. -/
def patternOf (w : List Word) : List Nat :=
  [field (w.getD 0 0) 11 11, field (w.getD 0 0) 7 4, field (w.getD 1 0) 15 13, field (w.getD 1 0) 8 0,
    (w.getD 3 0).toNat, (w.getD 4 0).toNat]

/-- What the set of relays below an upstream end depends on (R209). -/
def relayKey (w : List Word) : Option (Nat × Nat) :=
  if bit (w.getD 0 0) 15 && field (w.getD 0 0) 14 12 == 4 then some ((w.getD 3 0).toNat, (w.getD 4 0).toNat) else none

/-- Is a record change held up by an outstanding order (R66, R209)? -/
def State.recordHeld (s : State) (u : Nat) (old new : List Word) : Bool :=
  (s.unitBusy u && patternOf old != patternOf new) || (!s.afw.orders.isEmpty && relayKey old != relayKey new)

/-- Write words 0 to 11 of a record and relink the outlet lists it touches. -/
def State.putNode (s : State) (u : Nat) (w : List Word) : State :=
  let before := s.nodeSeg u
  let t := s.wrN (nodeAddr u) w
  let segs := (before.toList ++ (t.nodeSeg u).toList).filter t.segValid
  segs.foldl (fun (t : State) g => t.relinkOutlets g) t

/-- Words a NODE SET or import starts from: an invalid record starts from all zero (R315). -/
def State.nodeBase (s : State) (u : Nat) : List Word :=
  if s.nodeValid u then s.nodeWords u else 0x8000 :: List.replicate 11 0

/-- Relay mode holds at most 4,096 records (R206). -/
def State.nodesFull (s : State) (extra : Nat) : Bool := s.isRelay && decide (4096 < s.nodes.length + extra)

/-- Is a relay descriptor (R205) one for a record of KIND 4, with frequencies of the transmitter's span (R203)? -/
def descOk (a : NodeArgs) (w : List Word) : Bool :=
  match a.desc with
  | some d =>
    let hz (f : Nat) : Bool := decide (1360000 ≤ f) && decide (f ≤ 9600000)
    field (w.getD 0 0) 14 12 == 4 && hz d.beacon && decide (d.dch.length ≤ 6) && d.dch.all hz && (d.wake == 0 || hz d.wake)
  | none => true

/-- Enter a relay's descriptor (R205; log entry 42). -/
def State.putDesc (s : State) (u : Nat) (o : Option DescArgs) : State :=
  match o with
  | some d =>
    let others := s.afw.relayDesc.filter (fun x => x.relay != lo16 u)
    { s with afw := { s.afw with relayDesc := others ++ [⟨lo16 u, d.beacon, d.dch, d.wake⟩] } }
  | none => s

/-- NODE SET (R205, R315). -/
def execNodeSet (u : Nat) (a : NodeArgs) (s : State) : Out :=
  s.command true true (fun s =>
    let s := s.readsUnit 0 u
    let w := s.nodeBase u
    let new := nodeApply a w
    if !unitOk u || !nodeArgsOk a w s.cycleLen || !descOk a new then s.badArg
    else if s.recordHeld u (s.nodeWords u) new then s.outstanding
    else if !s.nodeValid u && s.nodesFull 1 then s.err "TABLE_FULL"
    else ((s.putNode u new).putDesc u a.desc).ok (kvH "unit" 4 u ++ kvN "valid" 1))

/-- The pairs of NODE GET. -/
def nodePairs (s : State) (u : Nat) : String :=
  let w (i : Nat) : Word := s.nodeW u i
  let gs := groupsOf (s.nodeWords u)
  kv "kind" (kindText (s.nodeKind u)) ++ kvB "valid" (s.nodeValid u) ++ kvB "haspat" (s.nodeHasPat u) ++
    kvB "lost" (s.nodeLost u) ++ kvN "p" (s.nodeP u) ++ kvN "ph" (s.nodePhase u) ++ kvN "d" (s.nodeD u) ++
    kvN "uidx" (field (w 0) 1 0) ++ kvN "rho" (field (w 2) 11 0) ++ kvH "relay1" 4 (w 3).toNat ++
    kvH "relay2" 4 (w 4).toNat ++ kvN "wake" (field (w 0) 9 9) ++ kvH "wcode" 3 (field (w 5) 11 0) ++
    (match s.nodeSeg u with | some g => kvN "seg" g | none => "") ++
    kv "groups" (if gs.isEmpty then "NONE" else joinWith "," (gs.map (toString ·))) ++
    kvI "pinit" (hiByte (w 11)).toInt ++ kvN "lastfrm" (s.rd32 (nodeAddr u + 12)) ++ kvN "rseq" (hiByte (w 14)).toNat ++
    kvI "rssi" (loByte (w 14)).toInt ++ kv "margin" (marginText (hiByte (w 15))) ++ kvH "stat" 2 (loByte (w 15)).toNat ++
    kvN "pos" (w 18).toNat ++ kvN "flow" (s.rd32 (nodeAddr u + 16)) ++ kvH "lasttkt" 4 (w 19).toNat ++
    kvH "lres" 2 (loByte (w 20)).toNat ++ kvI "brssi" (hiByte (w 21)).toInt ++ kvN "padj" (field (w 21) 1 0)

/-- NODE GET (R315). -/
def execNodeGet (u : Nat) (s : State) : Out :=
  s.command true true (fun s =>
    let s := s.readsUnit 0 u
    if !unitOk u then s.badArg
    else if !s.nodeValid u then s.err "UNKNOWN_UNIT"
    else s.ok (nodePairs s u))

/-- NODE DEL (R205, R315): of the record VALID alone is cleared; a relay's descriptor goes with it. -/
def execNodeDel (u : Nat) (s : State) : Out :=
  s.command true true (fun s =>
    let s := s.readsUnit 0 u
    if !unitOk u then s.badArg
    else
      let old := s.nodeWords u
      let new := setBit (old.getD 0 0) 15 false :: old.drop 1
      if s.unitBusy u || (!s.afw.orders.isEmpty && relayKey old != relayKey new) then s.outstanding
      else
        let t := s.putNode u new
        ({ t with afw := { t.afw with relayDesc := t.afw.relayDesc.filter (fun x => x.relay != lo16 u) } }).ok
          (kvH "unit" 4 u ++ kvN "valid" 0))

/-- The NETCFG body of a record's words (R111). -/
def netcfgBody (w : List Word) : List Byte :=
  let g (i : Nat) : Word := w.getD i 0
  let depth := field (g 0) 3 2
  let server : Word := if depth = 2 then g 4 else if depth = 1 then g 3 else 0
  [BitVec.ofNat 8 (field (g 0) 7 4 * 16 + depth * 4)] ++
    bytesOfWords [place (field (g 1) 15 13) 13 ||| place (field (g 1) 8 0) 0,
      place (field (g 0) 1 0) 14 ||| place (field (g 2) 11 0) 0, server,
      bitWord 15 (bit (g 0) 9) ||| place (field (g 5) 11 0) 0] ++ [hiByte (g 11)]

/-- NODE CONFIG (R111, R315): the record takes the values at the order's DONE, APPLIED disposition. -/
def execNodeConfig (u : Nat) (dl : Deadline) (retries : Nat) (a : NodeArgs) (s : State) : Out :=
  s.command false false (fun s =>
    let s := s.readsUnit 0 u
    let w := s.nodeBase u
    let a : NodeArgs := { a with kind := none, seg := none, groups := none, desc := none }
    if !s.tx.regLock then s.unlocked
    else if !unitOk u || 7 < retries || !a.p.isSome || !a.ph.isSome || !a.d.isSome ||
        !nodeArgsOk a w s.cycleLen then s.badArg
    else match s.deadlineFrame dl with
      | none => s.err "BAD_ARG no utc"
      | some f =>
        let new := nodeApply a w
        if f ≤ s.frm then s.badArg
        else if s.nodeValid u && s.recordHeld u w new then s.outstanding
        else s.submit { members := [u], grp := none, act := 7, param := 0, port := 0xF0, body := netcfgBody new,
                        deadline := f, retries := retries, engine := false,
                        netcfg := some (new.take 6 ++ [new.getD 11 0]), keySend := false })

/-! ### Segments and shares (R190, R316) -/

/-- Does following PARENT from g come to `to`? -/
def State.leadsTo (s : State) (target : Nat) : Nat → Nat → Bool
  | 0, _ => false
  | k + 1, g => g == target || (s.segValid g && !s.segHead g && s.leadsTo target k (s.segParent g))

def segArgsOk (a : SegArgs) : Bool :=
  optOk a.head isBit && optOk a.parent (· ≤ 4095) && optOk a.share isWord && optOk a.loss isWord &&
    optOk a.maxage (fun v => decide (1 ≤ v) && isWord v) && optOk a.usemeas isBit && optOk a.qmin isFlow &&
    optOk a.qmax isFlow && optOk a.meter (fun v => decide (v ≤ 0xFFFE))

/-- Words 0 to 3 of a segment record with the keys given. -/
def segArgsWords (a : SegArgs) (w : List Word) : List Word :=
  let put (x : Word) (hi lo : Nat) (o : Option Nat) : Word := match o with | some v => setField x hi lo v | none => x
  let w0 := put (put (put (w.getD 0 0) 14 14 a.head) 13 13 a.usemeas) 11 0 a.parent
  [setBit w0 15 true, put (w.getD 1 0) 15 0 a.share, put (w.getD 2 0) 15 0 a.loss, put (w.getD 3 0) 15 0 a.maxage]

/-- SEG SET (R190, R316). -/
def execSegSet (seg : Nat) (a : SegArgs) (s : State) : Out :=
  s.command false true (fun s =>
    let s := s.readsSeg 0 seg
    if 4095 < seg || !segArgsOk a then s.badArg
    else
      let fresh := !s.segValid seg
      let old := if fresh then List.replicate 4 0 else s.rdN (segAddr seg) 4
      let new := segArgsWords a old
      let par := field (new.getD 0 0) 11 0
      if !bit (new.getD 0 0) 14 && (par == seg || s.leadsTo seg 4096 par) then s.badArg
      else
        let t := if fresh then s.wrN (segAddr seg) (List.replicate 32 0) else s
        let t := t.wrN (segAddr seg) new
        let t := match a.qmin with | some v => t.wr32 (segAddr seg + 8) v | none => t
        let t := match a.qmax with | some v => t.wr32 (segAddr seg + 10) v | none => t
        let t := match a.meter with | some v => t.setSegW seg 12 (lo16 v) | none => t
        (t.relinkChildren.relinkOutlets seg).ok (kvN "seg" seg ++ kvN "valid" 1))

def noneOr (k : String) (none : Nat) (v : Nat) : String := if v = none then kv k "NONE" else kvN k v

/-- SEG GET (R316). -/
def execSegGet (seg : Nat) (s : State) : Out :=
  s.command false true (fun s =>
    let s := s.readsSeg 0 seg
    if 4095 < seg || !s.segValid seg then s.badArg
    else
      let w (i : Nat) : Word := s.segW seg i
      s.ok (kvB "head" (s.segHead seg) ++ kvN "parent" (s.segParent seg) ++ kvN "share" (w 1).toNat ++
        kvN "loss" (w 2).toNat ++ kvN "maxage" (w 3).toNat ++ kvB "usemeas" (bit (w 0) 13) ++ kvB "stale" (bit (w 0) 12) ++
        kvN "inflow" (s.seg32 seg 4) ++ kvN "inffrm" (s.seg32 seg 6) ++ kvN "qmin" (s.seg32 seg 8) ++
        kvN "qmax" (s.seg32 seg 10) ++ kvH "meter" 4 (w 12).toNat ++ kvN "nout" (w 14).toNat ++
        noneOr "firstchild" 0xFFFF (w 15).toNat ++ noneOr "nextsib" 0xFFFF (w 16).toNat ++ kvN "alloc" (s.seg32 seg 18) ++
        kvN "net" (s.seg32 seg 20) ++ kvN "surplus" (s.seg32 seg 22)))

/-- SEG DEL (R316). -/
def execSegDel (seg : Nat) (s : State) : Out :=
  s.command false true (fun s =>
    let s := s.readsSeg 0 seg
    if 4095 < seg || !(s.childrenOf seg).isEmpty || !(s.outletsOf seg).isEmpty then s.badArg
    else ((s.setSegW seg 0 (setBit (s.segW seg 0) 15 false)).relinkChildren).ok (kvN "seg" seg ++ kvN "valid" 0))

/-- Do the list words of a segment, and those of its outlets, hold the list of its outlets (R190)? -/
def State.listOk (s : State) (g : Nat) : Bool :=
  let l := s.outletsOf g
  s.segW g 13 == lo16 (l.headD 0) && s.segW g 14 == lo16 l.length &&
    (l.zip (l.drop 1 ++ [0])).all (fun p => s.ledW p.1 15 == lo16 p.2)

/-- SHARE SET (R316): the outlets in list order, then the child segments. A list that the host has damaged is an
inconsistency of AFW's tables (R300, log entry 70). -/
def execShareSet (seg : Nat) (shares : List Nat) (s : State) : Out :=
  s.command false true (fun s =>
    let s := s.readsSeg 0 seg
    let outs := s.outletsOf seg
    let subs := s.childrenOf seg
    if 4095 < seg || !s.segValid seg || shares.length != outs.length + subs.length || !shares.all isWord then s.badArg
    else if !s.listOk seg then s.internal
    else
      let t := (outs.zip shares).foldl (fun (t : State) x => t.setLedW x.1 2 (lo16 x.2)) s
      let t := (subs.zip (shares.drop outs.length)).foldl (fun (t : State) x => t.setSegW x.1 1 (lo16 x.2)) t
      t.ok (kvN "seg" seg ++ kvN "n" shares.length))

def ShareRow.line (r : ShareRow) : String :=
  "member=" ++ (if r.isSeg then toString r.member else hex0x 4 r.member) ++ kvN "share" r.share.toNat ++ kvN "lo" r.lo ++
    kvN "hi" r.hi ++ kvN "q" r.q ++ kv "issued" r.issued ++ (if r.issued = "NONE" then "" else kv "adm" r.adm)

/-- SHARE SHOW (R316): the members of the last pass. -/
def execShareShow (seg : Nat) (s : State) : Out :=
  s.command false true (fun s =>
    if 4095 < seg || !s.segValid seg then s.badArg
    else
      let rs := s.afw.rows.filter (fun r => r.seg == seg)
      s.okWith (rs.map ShareRow.line)
        ((match s.afw.lastPass with | some f => kvN "frame" f.toNat | none => kv "frame" "NONE") ++ kvN "n" rs.length))

/-! ### Ledger records (R188, R192, R316) -/

def ledgerArgsOk (a : LedgerArgs) : Bool :=
  optOk a.active isBit && optOk a.held isBit && optOk a.share isWord && optOk a.hyst isWord && optOk a.ent isLong &&
    optOk a.deliv isLong && optOk a.entbase isLong && optOk a.carry isBit && optOk a.qmin isFlow && optOk a.qmax isFlow

def State.optBit (s : State) (u b : Nat) (o : Option Nat) : State :=
  match o with | some v => s.setLedFlag u b (v == 1) | none => s

def State.optWord (s : State) (u i : Nat) (o : Option Nat) : State :=
  match o with | some v => s.setLedW u i (lo16 v) | none => s

def State.optLong (s : State) (u i : Nat) (o : Option Nat) : State :=
  match o with | some v => s.wr32 (ledAddr u + i) v | none => s

/-- QMIN and QMAX: low words and the byte of word 14. -/
def State.optQmin (s : State) (u : Nat) (o : Option Nat) : State :=
  match o with
  | some v => (s.setLedW u 12 (lo16 v)).setLedW u 14 (setField (s.ledW u 14) 7 0 (v / 65536))
  | none => s

def State.optQmax (s : State) (u : Nat) (o : Option Nat) : State :=
  match o with
  | some v => (s.setLedW u 13 (lo16 v)).setLedW u 14 (setField (s.ledW u 14) 15 8 (v / 65536))
  | none => s

/-- LEDGER SET (R199, R316). -/
def execLedgerSet (u : Nat) (a : LedgerArgs) (s : State) : Out :=
  s.command false true (fun s =>
    let s := s.readsUnit 0 u
    if !unitOk u || !ledgerArgsOk a then s.badArg
    else if !s.nodeValid u then s.err "UNKNOWN_UNIT"
    else if s.nodeKind u ≠ 0 then s.badArg
    else
      let t := ((s.optBit u 15 a.active).optBit u 14 a.held).optBit u 10 a.carry
      let t := (t.optWord u 2 a.share).optWord u 3 a.hyst
      let t := ((t.optLong u 4 a.ent).optLong u 6 a.deliv).optLong u 10 a.entbase
      ((t.optQmin u a.qmin).optQmax u a.qmax).ok (kvH "unit" 4 u))

/-- LEDGER GET (R316). -/
def execLedgerGet (u : Nat) (s : State) : Out :=
  s.command false true (fun s =>
    let s := s.readsUnit 0 u
    if !unitOk u then s.badArg
    else if !s.nodeValid u then s.err "UNKNOWN_UNIT"
    else s.ok (kvN "target" (s.ledTarget u) ++ kvB "active" (s.ledFlag u 15) ++ kvB "held" (s.ledFlag u 14) ++
      kvB "pending" (s.ledFlag u 13) ++ kvB "tgtv" (s.ledFlag u 12) ++ kvB "volv" (s.ledFlag u 11) ++
      kvB "carry" (s.ledFlag u 10) ++ kvN "share" (s.ledW u 2).toNat ++ kvN "hyst" (s.ledW u 3).toNat ++
      kvN "ent" (s.led32 u 4) ++ kvN "deliv" (s.led32 u 6) ++ kvN "lastvol" (s.led32 u 8) ++
      kvN "entbase" (s.led32 u 10) ++ kvN "qmin" (s.ledQmin u) ++ kvN "qmax" (s.ledQmax u)))

/-- LEDGER ENGINE (R192). -/
def execLedgerEngine (a : EngineArgs) (s : State) : Out :=
  s.command false true (fun s =>
    if optOk a.enable isBit && optOk a.startfic (fun v => decide (1 ≤ v) && decide (v ≤ 59)) &&
       optOk a.dlframes (fun v => decide (60 ≤ v) && decide (v ≤ 3600)) && optOk a.retries (· ≤ 7) then
      let t := { s with afw := { s.afw with
        enable := (a.enable.map (· == 1)).getD s.afw.enable, startfic := a.startfic.getD s.afw.startfic,
        dlframes := a.dlframes.getD s.afw.dlframes, retries := a.retries.getD s.afw.retries } }
      t.ok (kvB "enable" t.afw.enable ++ kvN "startfic" t.afw.startfic ++ kvN "dlframes" t.afw.dlframes ++
        kvN "retries" t.afw.retries)
    else s.badArg)

/-! ### Imports (R317, R318) -/

/-- A read of the ledger SRAM by AFW: the key region reads 0x0000 (R202). -/
def State.afwRead (s : State) (a : Nat) : Word := if a < keyBase then s.rd a else 0

/-- Where a block from flash is copied to in the engine workspace (R183, R317; log entry 7). -/
def importCopy : Nat := 0x580000

def srcOk : ImportSrc → Bool
  | .sram a => 0x580000 ≤ a && a ≤ 0x77FFFF
  | .flash sel fa _ => 1 ≤ sel && sel ≤ 3 && fa ≤ 0xFFFFFF

def isFlash : ImportSrc → Bool
  | .sram _ => false
  | .flash _ _ _ => true

/-- Words of an entry by MAGIC. -/
def entrySize (magic : Word) : Nat := if magic = 0x1D01 then 13 else if magic = 0x1D02 then 16 else 14

/-- A block from flash is copied into the engine workspace first (R317): the whole block that its first words announce. The
address at which the block then stands, and the state with it. -/
def State.importBlock (s : State) (src : ImportSrc) : Nat × State :=
  match src with
  | .sram a => (a, s)
  | .flash _ _ ws =>
    let n := 3 + (ws.getD 1 0).toNat * entrySize (ws.getD 0 0)
    (importCopy, s.wrN importCopy ((List.range n).map (fun i => ws.getD i 0)))

/-- The entries of the block at an address whose MAGIC, COUNT and CRC pass, or the code of the fault. -/
def State.blockEntries (s : State) (flash : Bool) (at_ : Nat) (magics : List Word) :
    Except String (Word × List (List Word)) :=
  let word (i : Nat) : Word := s.afwRead (at_ + i)
  let magic := word 0
  let n := (word 1).toNat
  let k := entrySize magic
  let crcBad : Bool := crc16 0xFFFF (bytesOfWords ((List.range (2 + n * k)).map word)) != word (2 + n * k)
  let most := if magic = 0x1D03 then 4096 else 65534
  if flash && crcBad then .error "FLASH"
  else if !magics.contains magic then .error "BAD_ARG"
  else if n = 0 ∨ most < n then .error "BAD_ARG"
  else if crcBad then .error "BAD_ARG"
  else .ok (magic, (List.range n).map (fun e => (List.range k).map (fun i => word (2 + e * k + i))))

/-- The fault of a node entry: its ranges and reserved bits, R66, R206 and R209. -/
def State.nodeEntryFault (s : State) (e : List Word) : Option String :=
  let u := (e.getD 0 0).toNat
  let w := e.drop 1
  let g (i : Nat) : Word := w.getD i 0
  let p := 2 ^ field (g 0) 7 4
  if !unitOk u || decide (4 < field (g 0) 14 12) || decide (9 < field (g 0) 7 4) || field (g 0) 3 2 == 3 ||
     decide (5 < field (g 1) 15 13) || field (g 1) 12 9 != 0 || decide (p ≤ field (g 1) 8 0) || field (g 2) 15 12 != 0 ||
     decide (s.cycleLen ≤ field (g 2) 11 0) || g 3 == 0xFFFF || g 4 == 0xFFFF || field (g 5) 15 12 != 0 ||
     field (g 6) 14 12 != 0 || [7, 8, 9, 10].any (fun i => field (g i) 14 12 != 0) || loByte (g 11) != 0 then some "BAD_ARG"
  else if s.recordHeld u (s.nodeWords u) w || (s.unitBusy u && !bit (g 0) 15) then some "ORDERS_OUTSTANDING"
  else none

/-- The fault of entry i of a node block: that of its own, or a record more than a relay holds (R206), counted over the
entries up to it. -/
def State.nodeBlockFault (s : State) (es : List (List Word)) (i : Nat) (e : List Word) : Option String :=
  let addr (x : List Word) : Nat := (x.getD 0 0).toNat
  let here (v : Bool) : Nat := (((es.take (i + 1)).filter (fun x => bit (x.getD 1 0) 15 == v && s.nodeValid (addr x) != v)).map
    addr).eraseDups.length
  match s.nodeEntryFault e with
  | some c => some c
  | none =>
    if bit (e.getD 1 0) 15 && !s.nodeValid (addr e) && s.isRelay && decide (4096 + here false < s.nodes.length + here true) then
      some "TABLE_FULL"
    else none

/-- The fault of a ledger entry. -/
def ledgerEntryFault (e : List Word) : Option String :=
  if !unitOk (e.getD 0 0).toNat || field (e.getD 2 0) 9 8 != 0 then some "BAD_ARG" else none

/-- The fault of a segment entry: ranges, and a loop under the parents of the block, where of two entries for one segment
the last counts. -/
def State.segEntryFault (s : State) (all : List (List Word)) (e : List Word) : Option String :=
  let g := (e.getD 0 0).toNat
  let flow (i : Nat) : Nat := pair32 (e.getD (1 + i) 0) (e.getD (2 + i) 0)
  let parent (x : Nat) : Option Nat :=
    match all.reverse.find? (fun y => (y.getD 0 0).toNat == x) with
    | some y => if bit (y.getD 1 0) 15 && !bit (y.getD 1 0) 14 then some (field (y.getD 1 0) 11 0) else none
    | none => if s.segValid x && !s.segHead x then some (s.segParent x) else none
  let rec climb : Nat → Nat → Bool
    | 0, _ => true
    | k + 1, x => match parent x with
      | none => false
      | some p => p == g || climb k p
  if 4095 < g || e.getD 4 0 == 0 || decide (0xFFFFFF < flow 4) || decide (0xFFFFFF < flow 8) ||
     decide (0xFFFFFF < flow 10) || e.getD 13 0 == 0xFFFF || climb 4096 g then some "BAD_ARG"
  else none

/-- The first fault with its index. -/
def firstFault (f : Nat → List Word → Option String) (es : List (List Word)) : Option (Nat × String) :=
  es.zipIdx.findSome? (fun x => (f x.2 x.1).map (fun c => (x.2, c)))

def State.putLedger (s : State) (e : List Word) : State :=
  let u := (e.getD 0 0).toNat
  let keep := s.ledFlag u 13
  let w := e.drop 1
  s.wrN (ledAddr u) (w.getD 0 0 :: setBit (w.getD 1 0) 13 keep :: w.drop 2)

def faultLine (x : Nat × String) : String := "-ERR " ++ x.2 ++ kvN "entry" x.1

/-- NODE IMPORT (R317, R318): a long operation; nothing is written when a check fails. -/
def execNodeImport (src : ImportSrc) (s : State) : Out :=
  s.command true true (fun s =>
    if !srcOk src then s.badArg
    else
      let b := s.importBlock src
      let s := b.2
      match s.blockEntries (isFlash src) b.1 [0x1D01] with
      | .error c => s.beginLong .nodeImport (some ("-ERR " ++ c))
      | .ok (_, es) =>
        match firstFault (s.nodeBlockFault es) es with
        | some x => s.beginLong .nodeImport (some (faultLine x))
        | none =>
          let put (t : State) (e : List Word) : State := t.wrN (nodeAddr (e.getD 0 0).toNat) (e.drop 1)
          ((es.foldl put s).relinkAll).beginLong .nodeImport (some ("+OK" ++ kvN "count" es.length)))

/-- LEDGER IMPORT (R317, R318). -/
def execLedgerImport (src : ImportSrc) (s : State) : Out :=
  s.command false true (fun s =>
    if !srcOk src then s.badArg
    else
      let b := s.importBlock src
      let s := b.2
      match s.blockEntries (isFlash src) b.1 [0x1D02, 0x1D03] with
      | .error c => s.beginLong .ledgerImport (some ("-ERR " ++ c))
      | .ok (magic, es) =>
        let seg := magic == 0x1D03
        match firstFault (fun _ e => if seg then s.segEntryFault es e else ledgerEntryFault e) es with
        | some x => s.beginLong .ledgerImport (some (faultLine x))
        | none =>
          let put (t : State) (e : List Word) : State :=
            if seg then t.wrN (segAddr (e.getD 0 0).toNat) (e.drop 1) else t.putLedger e
          ((es.foldl put s).relinkAll).beginLong .ledgerImport
            (some ("+OK" ++ kv "kind" (if seg then "SEG" else "LEDGER") ++ kvN "count" es.length)))

end Sys2Proof.Machine
end

