-- ==== Sys2Proof/Machine/MxOrder.lean ====
section
/-! DEFINITION. ORDER, CANCEL, WAKE and KEY SEND (R63, R65, R73, R112, R219, R319 to R322, R330). -/

namespace Sys2Proof.Machine

open Sys2Proof

/-! ### ORDER (R319) -/

/-- Action code, parameter, port and body of an action (R54, R120). -/
def actionParts : Action → Nat × Nat × Nat × List Byte
  | .setpoint v => (1, v, 0, [])
  | .flow v => (2, v, 0, [])
  | .volume v => (3, v, 0, [])
  | .hold => (4, 0, 0, [])
  | .close => (5, 0, 0, [])
  | .safestate v => (6, v, 0, [])
  | .opaqueBody p b => (7, 0, p, b)

/-- The ranges of R319. -/
def actionOk : Action → Bool
  | .setpoint v => v ≤ 1000
  | .flow v => isFlow v
  | .volume v => decide (1 ≤ v) && isLong v
  | .hold => true
  | .close => true
  | .safestate v => v ≤ 1
  | .opaqueBody p b => decide (p ≤ 0xEF) && decide (1 ≤ b.length) && decide (b.length ≤ 120)

/-- The members of a group in ascending address (R55). -/
def State.members (s : State) (g : Nat) : List Nat := s.nodes.filter (fun u => (groupsOf (s.nodeWords u)).contains g)

def targetOk : Target → Bool
  | .unit u => unitOk u
  | .grp g => g ≤ 4095

/-- The order that an ORDER line submits. -/
def State.orderReq (s : State) (tgt : Target) (act : Action) (f retries : Nat) : OrderReq :=
  let a := actionParts act
  { members := match tgt with | .unit u => [u] | .grp g => s.members g,
    grp := match tgt with | .unit _ => none | .grp g => some g,
    act := a.1, param := a.2.1, port := a.2.2.1, body := a.2.2.2, deadline := f, retries := retries, engine := false,
    netcfg := none, keySend := false }

/-- ORDER (R63, R319). -/
def execOrder (tgt : Target) (act : Action) (dl : Deadline) (retries : Nat) (s : State) : Out :=
  s.command false false (fun s =>
    if !s.tx.regLock then s.unlocked
    else if !targetOk tgt || !actionOk act || 7 < retries then s.badArg
    else match s.deadlineFrame dl with
      | none => s.err "BAD_ARG no utc"
      | some f => if f ≤ s.frm then s.badArg else s.submit (s.orderReq tgt act f retries))

/-! ### CANCEL (R73, R320) -/

/-- The answer for a ticket that is not outstanding. -/
def State.cancelDone (s : State) (ticket : Word) : State :=
  match s.history ticket with
  | none => s.err ("NO_TICKET" ++ kvH "ticket" 4 ticket.toNat)
  | some a =>
    let d := field (s.rd (a + 6)) 15 13
    let ack : Byte := BitVec.ofNat 8 ((if bit (s.rd (a + 3)) 15 then 128 else 0) + field (s.rd (a + 2)) 6 0)
    s.err ("ALREADY" ++ kvH "ticket" 4 ticket.toNat ++ kv "disp" (dispText d) ++
      (if d = 0 then resultPairs ack else "") ++ kvF "frame" (pair32 (s.rd (a + 4)) (s.rd (a + 5))))

/-- CANCEL of an outstanding order by its next try. -/
def State.cancelLive (s : State) (o : OrderX) : State :=
  match s.nextTry o with
  | some (x, k) =>
    if x.commit ≤ s.now then
      s.err ("TOO_LATE" ++ kvH "ticket" 4 o.ticket.toNat ++ kvN "try" (k + 1) ++ kvF "outcome" (x.outcomeAt / 9600))
    else (s.cancelOrder o).ok (kvH "ticket" 4 o.ticket.toNat ++ kv "disp" "CANCELLED")
  | none => s.cancelDone o.ticket

def execCancel (ticket : Nat) (s : State) : Out :=
  s.command false true (fun s =>
    if ticket = 0 ∨ 0xFFFF < ticket then s.badArg
    else
      let t := match s.orderOf (lo16 ticket) with | some o => s.passOutcomes o | none => s
      match t.orderOf (lo16 ticket) with
      | some o => t.cancelLive o
      | none => t.cancelDone (lo16 ticket))

/-! ### WAKE (R219, R322) -/

/-- May slot n of frame f become a W slot of this transmitter: not P, not the C slot, no reservation, no other burst? -/
def State.wakeFree (s : State) (all : List Resv) (txr f n : Nat) : Bool :=
  (planSlot s.basePlan n).role != roleP && !(n == 7 && s.isFrame0 f) && !all.any (fun r => inInst r txr f n) &&
    !s.covered txr f n

/-- Runs of a burst in one frame, from slot n on: whole runs of free slots in slot order, each of at least 2 slots, so
that no single slot is left over. -/
def runsFrom (free : Nat → Bool) (last : Nat) : Nat → Nat → Nat → List (Nat × Nat) × Nat
  | 0, _, left => ([], left)
  | k + 1, n, left =>
    let len := ((List.range (last + 1 - n)).takeWhile (fun i => free (n + i))).length
    let take0 := min len left
    let take := if left = take0 + 1 then take0 - 1 else take0
    if last < n ∨ left = 0 then ([], left)
    else if take < 2 then runsFrom free last k (n + max 1 len) left
    else
      let r := runsFrom free last k (n + len) (left - take)
      ((n, take) :: r.1, r.2)

/-- Does a run fit the duty model of its transmitter? -/
def State.runFits (s : State) (txr : Nat) (range : Option Nat) (f n : Nat) : Bool :=
  s.dutyFits s.resvs txr range f (wRunTicks n)

/-- Place the runs of a coordinator's burst in consecutive frames from f on. -/
def State.burstFrom (s : State) (range : Option Nat) (wcode : BitVec 12) (hend : Nat) :
    Nat → Nat → Nat → State → Option State
  | _, _, 0, t => some t
  | 0, _, _, _ => none
  | k + 1, f, left, t =>
    let r := runsFrom (t.wakeFree t.resvs 0 f) 7 8 2 left
    if hend ≤ f ∨ r.1.isEmpty = true ∨ !r.1.all (fun x => t.runFits 0 range f x.2) then none
    else
      let ws := r.1.map (fun x => WakeRun.mk f x.1 x.2 wcode 0 0 0)
      s.burstFrom range wcode hend k (f + 1) r.2 { t with afw := { t.afw with wakes := t.afw.wakes ++ ws } }

/-- A placed burst: its first run and the state with it. -/
def State.ownBurst (s : State) (wcode : BitVec 12) (slots start : Nat) : Option (WakeRun × State) :=
  let hend := s.frm + s.seq.cycLen.toNat
  (List.range (hend - start)).findSome? (fun i =>
    match s.burstFrom (s.burstRange 0) wcode hend 16 (start + i) slots s with
    | some t => (t.afw.wakes[s.afw.wakes.length]?).map (fun w => (w, t))
    | none => none)

/-- The exchanges that carry a control position to a relay: frame and slot of the first, NOFF, frame of the last. -/
def State.wakeExchange (s : State) (via b : Nat) : Option (Nat × Nat × Nat) :=
  let all := s.resvs
  let room (f n relay : Nat) : Bool := decide (s.downUsed all f n relay + 1 ≤ s.slotCap n)
  let outer := s.relay1 via
  let head := if outer = 0 then via else outer
  match s.ctlSlot b 0 head with
  | none => none
  | some n =>
    if decide (9600 * b + 1200 * n < s.now + 1200 + 19) || !room b n head then none
    else if outer = 0 then some (n, 0, b)
    else ((List.range 31).find? (fun i =>
        match s.ctlSlot (b + 1 + i) outer via with
        | some m => room (b + 1 + i) m via
        | none => false)).map (fun i => (n, i + 1, b + 1 + i))

/-- The first slot of a run of n W slots of a relay in frame f. -/
def State.relayRun (s : State) (via f n : Nat) : Option Nat :=
  (List.range (6 - n)).map (· + 2) |>.find? (fun a => (List.range n).all (fun i => s.wakeFree s.resvs via f (a + i)))

/-- A relayed burst: the earliest bundle, then the earliest frame, in which R219 allows it. -/
def State.relayBurst (s : State) (via : Nat) (wcode : BitVec 12) (n start : Nat) : Option (WakeRun × State) :=
  let hend := s.frm + s.seq.cycLen.toNat
  let range := s.burstRange via
  (List.range (hend - s.frm)).findSome? (fun i =>
    let b := s.frm + i
    match s.wakeExchange via b with
    | none => none
    | some (_, noff, last) =>
      let lo := max start (last + 2)
      (List.range (min hend (b + 256) - lo)).findSome? (fun j =>
        match s.relayRun via (lo + j) n with
        | none => none
        | some a =>
          if s.runFits via range (lo + j) n then
            let w := WakeRun.mk (lo + j) a n wcode (lo16 via) b noff
            some (w, { s with afw := { s.afw with wakes := s.afw.wakes ++ [w] } })
          else none))

/-- The transmitter and wake code that the arguments name, or the code of the refusal. -/
def State.wakeTarget (s : State) (a : WakeArgs) : Except String (Nat × BitVec 12) :=
  match a.unit, a.wcode with
  | some u, none =>
    if !unitOk u || a.via.isSome then .error "BAD_ARG"
    else if !s.nodeValid u then .error "UNKNOWN_UNIT"
    else if !bit (s.nodeW u 0) 9 || !s.nodeHasPat u then .error "NO_PATH"
    else .ok (s.server u, BitVec.ofNat 12 (field (s.nodeW u 5) 11 0))
  | none, some w =>
    if 0xFFF < w ∨ 0xFFFE < a.via.getD 0 then .error "BAD_ARG" else .ok (a.via.getD 0, BitVec.ofNat 12 w)
  | _, _ => .error "BAD_ARG"

/-- Has a relay a path on which no relay is lost? -/
def State.relayReached (s : State) (via : Nat) : Bool :=
  s.nodeValid via && s.nodeKind via == 4 && !(s.path via ++ [via]).any s.nodeLost

/-- Build the bundle of a relayed wake if its slot is the next occurrence (R460). -/
def State.placeWake (s : State) (w : WakeRun) : State :=
  let head := if s.relay1 w.via.toNat = 0 then w.via.toNat else s.relay1 w.via.toNat
  match s.ctlSlot w.bundle 0 head with
  | some n => if w.bundle = s.nextFrame n then s.buildSlot n else s
  | none => s

/-- WAKE (R322). -/
def execWake (a : WakeArgs) (s : State) : Out :=
  s.command false false (fun s =>
    let slots := a.slots.getD 4
    if !s.tx.regLock then s.unlocked
    else match s.wakeTarget a with
      | .error c => s.err c
      | .ok (via, wcode) =>
        let c := s.afw.current.wch
        let start := max (s.frm + 2) (a.after.getD 0)
        let answer (x : Option (WakeRun × State)) (fin : State → WakeRun → State) : State :=
          match x with
          | none => s.err "NOFIT efd=none"
          | some (w, t) => (fin t w).ok (kvF "frame" w.frame ++ kvN "slot" w.first ++ kvN "slots" slots ++ kvH "via" 4 via)
        if decide (slots < 2) || decide ((if via = 0 then 16 else 5) < slots) || !optOk a.after (fun f => decide (s.frm < f)) then
          s.badArg
        else if via = 0 then
          (if c.isNone then s.err "NO_PATH" else answer (s.ownBurst wcode slots start) (fun t _ => t))
        else if !s.relayReached via || ((s.descOf via).isNone && c.isNone) ||
            (match s.descOf via with | some d => d.wake == 0 | none => false) then s.err "NO_PATH"
        else answer (s.relayBurst via wcode slots start) (fun t w => t.placeWake w))

/-! ### KEY SEND (R112, R330) -/

/-- KEY SEND: an OPAQUE order to port 0xF1, whose body TMON fills in (R271). -/
def execKeySend (u : Nat) (dl : Deadline) (retries : Nat) (s : State) : Out :=
  s.command false false (fun s =>
    if !s.tx.regLock then s.unlocked
    else if !unitOk u || 7 < retries then s.badArg
    else match s.deadlineFrame dl with
      | none => s.err "BAD_ARG no utc"
      | some f =>
        if f ≤ s.frm then s.badArg
        else if !s.hasKey (bslotEntry (!s.aon.bslot)) then s.err "NOKEY"
        else s.submit { members := [u], grp := none, act := 7, param := 0, port := 0xF1, body := List.replicate 16 0,
                        deadline := f, retries := retries, engine := false, netcfg := none, keySend := true })

end Sys2Proof.Machine
end

