-- ==== Sys2Proof/Machine/MxPlan.lean ====
section
/-! DEFINITION. PLAN, RADIO and REGION (R39, R66, R107, R139, R154, R176 to R181, R323 to R326). -/

namespace Sys2Proof.Machine

open Sys2Proof

/-! ### PLAN (R323, R324) -/

def roleLetter (r : Nat) : String :=
  if r = 1 then "B" else if r = 2 then "K" else if r = 3 then "U" else if r = 4 then "D" else if r = 5 then "P"
  else if r = 7 then "W" else "X"

def classText (c : Nat) : String := if c = 0 then "12K5" else if c = 1 then "25K" else "50K"

def alignedFor (c : Chan) (cls : Nat) : Bool := c.bin.toNat % binsOf cls == 0

/-- Does every channel of a base plan start on a bin that its slots' classes allow (R37)? -/
def BasePlan.aligned (b : BasePlan) : Bool :=
  let slots := (List.range 8).filter (fun n => b.role n == roleD)
  (match b.bch with
   | some c => !c.win && ((List.range 8).filter (fun n => n ≤ 1 || b.role n == roleP)).all (fun n => alignedFor c (b.cls n))
   | none => true) &&
    (slots.zip b.dch).all (fun x => alignedFor x.2 (b.cls x.1)) &&
    (match b.wch with | some c => alignedFor c (b.wclass.getD (b.cls 0)) | none => true) &&
    ((List.range 8).filter (fun n => b.role n == roleU)).all (fun n => b.uct.all (fun x => alignedFor x.2 (b.cls n)))

/-- Is a channel of a base plan in W1, which is off in Relay mode (R18, R204)? -/
def BasePlan.usesW1 (b : BasePlan) : Bool :=
  (b.dch ++ b.wch.toList ++ b.bch.toList ++ b.uct.map (·.2)).any (·.win)

/-- Roles that begin BK and hold only U, D, P, W and X after them (R24, R323). -/
def rolesOk (l : List Nat) : Bool :=
  l.length == 8 && l.take 2 == [1, 2] && (l.drop 2).all (fun r => [0, 3, 4, 5, 7].contains r)

/-- The ranges of PLAN SET. -/
def planArgsOk (a : PlanArgs) : Bool :=
  (match a.roles with | some l => rolesOk l | none => true) &&
    (match a.classes with | some l => l.length == 8 && l.all (· ≤ 2) | none => true) &&
    (match a.fec with | some l => l.length == 8 | none => true) &&
    (match a.dch with | some l => decide (l.length ≤ 6) | none => true) && optOk a.wclass (· ≤ 2) &&
    (match a.pwr with | some p => decide (-80 ≤ p) && decide (p ≤ 160) | none => true)

/-- The staged plan with the keys given. -/
def planWith (a : PlanArgs) (b : BasePlan) : BasePlan :=
  { b with roles := a.roles.getD b.roles, classes := a.classes.getD b.classes, fec := a.fec.getD b.fec,
           bch := match a.bch with | some c => some c | none => b.bch,
           dch := a.dch.getD b.dch, wch := a.wch.getD b.wch,
           wclass := match a.wclass with | some c => some c | none => b.wclass, pwr := a.pwr.getD b.pwr }

/-- PLAN SET: the staged base plan alone (R323). -/
def execPlanSet (a : PlanArgs) (s : State) : Out :=
  s.command true true (fun s =>
    let b := planWith a s.afw.staged
    if s.isRelay && (a.roles.isSome || a.classes.isSome || a.fec.isSome) then s.err "WRONG_MODE"
    else if !planArgsOk a || !(s.effectivePlan b).aligned || b.narrowP || (s.isRelay && b.usesW1) then s.badArg
    else ({ s with afw := { s.afw with staged := b } }).ok (kvN "staged" 1))

/-- Replace entries of the uplink channel table from `start` on. -/
def putUct (uct : List (Nat × Chan)) (start : Nat) (ch : List Chan) : List (Nat × Chan) :=
  uct.filter (fun x => decide (x.1 < start) || decide (start + ch.length ≤ x.1)) ++
    ch.zipIdx.map (fun x => (start + x.2, x.1))

/-- PLAN UCT (R323); in Relay mode the classes that channels are aligned to are the upstream page's (R207, R312). -/
def execPlanUct (start : Nat) (ch : List Chan) (n : Option Nat) (s : State) : Out :=
  s.command true true (fun s =>
    let b : BasePlan := { s.afw.staged with uct := putUct s.afw.staged.uct start ch, n := n.getD s.afw.staged.n }
    if start % 5 != 0 || decide (127 < start) || ch.isEmpty || decide (20 < ch.length) ||
       decide (128 < start + ch.length) || !optOk n (fun v => decide (1 ≤ v) && decide (v ≤ 128)) || !(s.effectivePlan b).aligned ||
       (s.isRelay && b.usesW1) then s.badArg
    else ({ s with afw := { s.afw with staged := b } }).ok (kvN "start" start ++ kvN "n" b.n))

/-- PLAN COMMIT (R39 to R42, R66, R127, R324): a long operation until the new plan is current. -/
def execPlanCommitCommand (s : State) : Out :=
  s.command true false (fun s =>
    let b := s.afw.staged
    let e := s.effectivePlan b
    let g := if s.seq.tick ≤ 9312 then s.frm + 1 else s.frm + 2
    if e.narrowP then s.badArg
    else if !s.afw.orders.isEmpty && plansDiffer (s.framePlan s.afw.current g) (s.framePlan e g) then s.outstanding
    else match (if s.pagesDiffer s.afw.current e then s.cfgvBar g else none) with
      | some x => s.changedRecently x
      | none => (s.commitBase b).beginLong .planCommit none)

/-- A channel or NONE. -/
def chanOrNone (c : Option Chan) : String := match c with | some x => channelText x | none => "NONE"

/-- Continuation lines of the uplink channel table, ten entries each. -/
def uctLines (b : BasePlan) : List String :=
  (List.range ((b.n + 9) / 10)).map (fun k =>
    "start=" ++ toString (10 * k) ++
      kv "ch" (joinWith "," ((List.range (min 10 (b.n - 10 * k))).map (fun i => chanOrNone (b.uctAt (10 * k + i))))))

/-- PLAN GET (R323). -/
def execPlanGet (staged : Bool) (s : State) : Out :=
  s.command true true (fun s =>
    let b := if staged then s.afw.staged else s.afw.current
    s.okWith (uctLines b)
      (kv "roles" (String.join ((List.range 8).map (fun n => roleLetter (b.role n)))) ++
        kv "classes" (joinWith "," ((List.range 8).map (fun n => classText (b.cls n)))) ++
        kv "fec" (String.join ((List.range 8).map (fun n => if b.coded n then "1" else "0"))) ++
        kv "bch" (chanOrNone b.bch) ++
        kv "dch" (if b.dch.isEmpty then "NONE" else joinWith "," (b.dch.map channelText)) ++
        kv "wch" (chanOrNone b.wch) ++ kv "wclass" (classText (b.wclass.getD (b.cls 0))) ++ kvI "pwr" b.pwr ++
        kvN "n" b.n))

/-! ### Radio test state (R181, R325) -/

/-- RADIO TEST. -/
def execRadioTest (s : State) : Out :=
  s.command true false (fun s =>
    if !s.tx.regLock then s.unlocked
    else if !s.afw.orders.isEmpty then s.outstanding
    else ({ s with seq := { s.seq with testState := true, testEnd := false } }).ok (kv "state" "TEST"))

/-- RADIO END: the latched plan resumes at the next frame boundary. -/
def execRadioEnd (s : State) : Out :=
  s.command true true (fun s =>
    if !s.seq.testState then s.err "WRONG_STATE"
    else ({ s with seq := { s.seq with testEnd := true } }).ok (kv "state" "PLAN" ++ kvF "frame" (s.frm + 1)))

/-- Ticks on air of a test transmission that starts at Tick `start` of its slot (R181, R325). -/
def testTicks (kind : TestKind) (cls start : Nat) : Nat :=
  match kind with
  | .pkt len => packetTicks cls (len + 16) false
  | .cw => 1128 - start
  | .wake _ => 1128 - start

/-- The ranges of the kind's own arguments. -/
def testOk (kind : TestKind) (cls : Nat) : Bool :=
  match kind with
  | .pkt len => len ≤ classMax cls
  | .cw => true
  | .wake w => w ≤ 0xFFF

/-- TMON's check of a test transmission of t Ticks: channel in a range, power and time within its limits. It goes out in
the current slot, under the centre in force there (R139, R163). -/
def State.testRange (s : State) (ch : Chan) (cls : Nat) (pwr : Int) (t : Nat) : Option Nat :=
  match rangeOf (s.region.getD []) (s.cen ch.win) ch.bin.toNat (binsOf cls) with
  | none => none
  | some j =>
    let r := regionRange (s.region.getD []) j
    if s.tx.regLock && decide (pwr ≤ r.pmax) && !overTxmax r t then some j else none

/-- The packet of a test: header TYPE 0x0, `len` zero bytes and zeros in place of the MIC (R325). R325 names no DST and no
SRC: broadcast and the machine's own address stand there (DESIGN CHOICE, log entry 67). -/
def State.testBytes (s : State) (len : Nat) : List Byte :=
  withFcrc (withHcrc (headerCore 0 false len 0xFFFF s.ownAddr (lo16 s.frm)) ++ List.replicate (len + 4) 0)

/-- A test transmission of t Ticks from Tick `start` of the current slot as it goes on air. Its result entry has TAG 0, and
WRUN = 1 for the kind WAKE, which R175 and R181 do not state (DESIGN CHOICE, log entry 67). -/
def State.testTx (s : State) (kind : TestKind) (ch : Chan) (cls : Nat) (pwr : Int) (j start t : Nat) : Tx :=
  { slot := s.seq.slot, frame := s.seq.frame, range := j, inRange := true, tag := 0, pwr := BitVec.ofInt 16 pwr,
    fec := false, cls := cls, bytes := match kind with | .pkt n => s.testBytes n | .cw => [] | .wake _ => [],
    wrun := match kind with | .wake _ => 1 | .pkt _ => 0 | .cw => 0,
    wcode := match kind with | .wake w => BitVec.ofNat 12 w | .pkt _ => 0 | .cw => 0,
    onair := t, start := start, carrier := (chanCentre (s.cen ch.win) ch.bin.toNat (binsOf cls)).toNat,
    temp := s.cal.temp, vpa := s.cal.vpa,
    paSet := Config.paSetting (if s.tx.extPa then 0 else pwr) s.cal.temp s.cal.vpa, phase := .committed, cutAt := none }

/-- The outcome of a test transmission, in the order of its conditions (R12, R166, R181). After a loss of the PLL's lock
transmission resumes at the next slot boundary (R12). A synthesiser that is not locked within the slot, or a PLL that keeps
the transmitter off, ends the test SYNLATE, where R181 gives LATE for a slot without room and R325 lists SYNLATE without a
condition; a cut ends one that is on air, and the answer then says CUT, which R325 does not list (DESIGN CHOICES, log entry
67). -/
def State.testOutcome (s : State) (x : Tx) (lockTick : Nat) (cca : Cca) (cut : Option (Bool × Nat)) : TxOutcome :=
  let r := regionRange (s.region.getD []) x.range
  if decide (1200 ≤ lockTick) || !s.clk.lock || s.clk.rxHold then .synlate
  else if 1128 < x.start + x.onair ∨ x.onair = 0 then .late
  else if !s.gate.passes r x.range (s.frm : Int) x.onair then .gated
  else if !lbtClear r cca then .blocked
  else match cut with
    | some c => if c.2 < x.onair then .cutOff else .sent
    | none => .sent

def testText : TxOutcome → String
  | .sent => "SENT" | .synlate => "SYNLATE" | .gated => "GATED" | .blocked => "BLOCKED" | .late => "LATE" | .cutOff => "CUT"

/-- What a cut leaves (R12, R166): the loss of the synthesiser's lock sets UNLK, that of the PLL's LOL. -/
def State.testCut (s : State) (pll : Bool) : State :=
  if pll then
    ({ s with clk := { s.clk with lock := false, lol := true, rxHold := true } } : State).selectTick true
  else { s with syn := { s.syn with lock := false, unlk := true } }

/-- The measured power of the last transmission while the detector is not under calibration (R170). -/
def State.measuredPower (s : State) (power : BitVec 10) : BitVec 10 := if s.powerHeld then s.tx.pwr else power

/-- The PA_VCTL code that a test transmission ends at in external PA mode: no row brings the detector's readings, so it is a
free value within VCTLMAX (R169; log entry 67). -/
def State.testCode (s : State) : BitVec 12 := BitVec.ofNat 12 (min s.vctlMax (Config.vctlTrim s.free))

/-- A test transmission that is made, with its result entry (R174, R175, R181) and, in external PA mode, the code stored for
its range (R169). One that is cut is charged its actual on-air time. -/
def State.runTest (s : State) (x : Tx) (o : TxOutcome) (cca : Cca) (power : BitVec 10) (cut : Option (Bool × Nat)) : State :=
  let f : Int := (s.frm : Int)
  let r := regionRange (s.region.getD []) x.range
  let pw := s.measuredPower power
  let sent := o = .sent ∨ o = .cutOff
  let real := if o = .cutOff then (cut.map (·.2)).getD 0 else x.onair
  let s := if sent then { s with
      gate := s.gate.charge x.range f real,
      tx := { s.tx with pwr := pw, range := BitVec.ofNat 3 x.range,
                        codes := if s.tx.extPa then s.tx.setCode x.range s.testCode else s.tx.codes,
                        last := some { x with cutAt := if o = .cutOff then some real else none } },
      free := if s.tx.extPa then s.free + 1 else s.free,
      seq := { s.seq with tick := max s.seq.tick (1200 * s.seq.slot.toNat + x.start + real) } } else s
  let s := if o = .cutOff then s.testCut ((cut.map (·.1)).getD false) else s
  s.pushResult (resultEntry o x.slot.toNat (some x.range) (x.wrun != 0) 0 s.frm
    (if sent then pw.setWidth 16 else if o = .blocked then BitVec.ofNat 16 (levelOf (ccaEnergy cca)) else 0)
    (if sent then real else 0) (budgetWord r (s.gate.budget r x.range f)))

/-- RADIO TX (R181, R325). `lockTick` is the Tick of the slot at which the synthesiser is locked, 1,200 or more for not
in this slot; `power` is what the detector measures; `cut` is a loss of lock, of the PLL if true, after so many Ticks on
air. -/
def execRadioTx (kind : TestKind) (ch : Chan) (cls : Nat) (pwr : Int) (cca : Cca) (lockTick : Nat) (power : BitVec 10)
    (cut : Option (Bool × Nat)) (s : State) : Out :=
  s.command true true (fun s =>
    let n := s.seq.slot.toNat
    let start := max (max 16 lockTick) (s.seq.tick - 1200 * n)
    let t := testTicks kind cls start
    if !s.seq.testState then s.err "WRONG_STATE"
    else if decide (2 < cls) || decide (pwr < -80) || decide (160 < pwr) || !testOk kind cls || !alignedFor ch cls then
      s.badArg
    else match s.testRange ch cls pwr t with
      | none => s.err ("REJECTED" ++ kvH "reason" 4 (Config.reason 21).toNat)
      | some j =>
        let x := s.testTx kind ch cls pwr j start t
        let o := s.testOutcome x lockTick cca cut
        let u := (s.synRun (chanIdx ch) x.carrier (decide (lockTick < 1200))).runTest x o
          cca power cut
        u.ok (kv "outcome" (testText o) ++ kvN "frame" s.frm ++ kvN "slot" n ++
          (if o = .sent then kvI "pwr" (s.measuredPower power).toInt else "")))

/-! ### Windows, gain, measurements (R139, R143, R147, R154, R325) -/

/-- RADIO WIN: the new centre is in force from the next slot boundary. -/
def execRadioWin (win cen : Nat) (s : State) : Out :=
  s.command true true (fun s =>
    let n := cen / 100
    let w := win == 1
    let old := if w then s.rxw.cen1.toNat else s.rxw.cen0.toNat
    let from? := if s.seq.slot = 7 then s.frm + 1 else s.frm
    if 1 < win then s.badArg
    else if s.isRelay && w then s.err "WRONG_MODE"
    else if cen % 100 ≠ 0 ∨ centreOk n = false then s.badArg
    else if !s.afw.orders.isEmpty then s.outstanding
    else match (if n = old then none else s.cfgvBar s.nextBeacon) with
      | some x => s.changedRecently x
      | none => match s.windowFault w n with
        | some g => s.err ("REJECTED" ++ kvH "reason" 4 (Config.reason g).toNat)
        | none =>
          let t := s.setCentre w n
          let t := if n = old then t else (t.cfgvSchedule s.nextBeacon).refresh 0
          t.ok (kvN "win" win ++ kvN "cen" cen ++ kvN "frame" from?))

def agcModeText (m : Nat) : String := if m = 0 then "AUTO8" else if m = 1 then "AUTO1" else "FIXED"

/-- RADIO AGC (R147): keys left out keep the register's value. -/
def execRadioAgc (ant : Ant) (a : AgcArgs) (s : State) : Out :=
  s.command true true (fun s =>
    let w := match ant with | .a => s.rxw.agcA | .b => s.rxw.agcB
    let mode := a.mode.getD (agcMode w)
    let mn := a.min.getD (agcMin w)
    let mx := a.max.getD (agcMax w)
    let fx := a.fix.getD (agcFix w)
    if decide (2 < mode) || decide (15 < mn) || decide (15 < mx) || decide (15 < fx) || decide (mx < mn) then s.badArg
    else (s.agcCfg ant (place mode 14 ||| place mx 10 ||| place mn 6 ||| place fx 2)).ok
      (kv "ant" (match ant with | .a => "A" | .b => "B") ++ kv "mode" (agcModeText mode) ++ kvN "min" mn ++ kvN "max" mx ++
        kvN "fix" fx))

/-- Levels of a channel's bins on an antenna, with NEW and the state after the measurement. -/
def State.measure (s : State) (ch : Chan) (width : Nat) (power : Bool) (ant : Ant) : List Int × Bool × State :=
  (List.range width).foldl (fun (x : List Int × Bool × State) i =>
    if power then
      (x.1 ++ [-((Config.binPower x.2.2.free).toNat : Int)], x.2.1, { x.2.2 with free := x.2.2.free + 1 })
    else
      let f := x.2.2.floorOf ⟨ant, ch.win, ch.bin + BitVec.ofNat 8 i⟩
      (x.1 ++ [-(levelOf f.1 : Int)], x.2.1 || f.2, x.2.2)) ([], false, s)

/-- The class of the slot in which a measurement is made gives the channel its width (R312; log entry 35). -/
def State.slotClass (s : State) : Nat := match s.seq.cur with | some p => (planSlot p s.seq.slot.toNat).cls | none => 1

/-- RADIO MEAS (R143, R144, R325). -/
def execRadioMeas (ch : Chan) (power : Bool) (s : State) : Out :=
  s.command true true (fun s =>
    if !alignedFor ch s.slotClass then s.badArg
    else
      let w := binsOf s.slotClass
      let a := s.measure ch w power .a
      let b := a.2.2.measure ch w power .b
      b.2.2.ok (kv "la" (quarters (sumLevels a.1)) ++ kv "lb" (quarters (sumLevels b.1)) ++ kvB "new" (a.2.1 || b.2.1) ++
        kvB "stale" (s.rxHeldAt .a s.now || s.rxHeldAt .b s.now)))

/-- RADIO SNIFF: LANE_FILT.SNIFF (R154). -/
def execRadioSniff (on : Nat) (s : State) : Out :=
  s.command true true (fun s =>
    if 1 < on then s.badArg
    else ({ s with lane := { s.lane with filt := bitWord 15 (on == 1) } }).ok (kvN "on" on))

/-- The pairs of RADIO GET, and of STAT part=RADIO; window centres in Hz. -/
def State.radioPairs (s : State) : String :=
  kvN "w0" (100 * s.rxw.cen0.toNat) ++ kvN "w1" (100 * s.rxw.cen1.toNat) ++ kvN "gaina" s.rxw.gainA.toNat ++
    kvN "gainb" s.rxw.gainB.toNat ++ kvB "newa" (agcNew s.rxw.agcActA s.rxw.statesA) ++
    kvB "newb" (agcNew s.rxw.agcActB s.rxw.statesB) ++ kvB "clipa" s.rxw.clipA ++ kvB "clipb" s.rxw.clipB ++
    kvB "reglock" s.tx.regLock ++ kvB "extpa" s.tx.extPa

/-- RXW_CLIP read and cleared (R325). -/
def State.clearClip (s : State) : State := { s with rxw := { s.rxw with clipA := false, clipB := false } }

/-- RADIO GET (R325). -/
def execRadioGet (s : State) : Out := s.command true true (fun s => s.clearClip.ok s.radioPairs)

/-! ### REGION (R176, R177, R326) -/

/-- REGION WRITE. -/
def execRegionWriteCommand (src : Nat) (s : State) : Out :=
  s.command true true (fun s =>
    if src < 0x580000 ∨ 0x77FFFF < src ∨ bufOk src 83 = false then s.badArg
    else
      let r := s.regionWrite (s.rdN src 83)
      if r.1 = 0x08 then r.2.err "LOCKED"
      else if r.1 = 0x03 then r.2.err ("REJECTED" ++ kvH "reason" 4 (Config.reason 20).toNat)
      else r.2.ok (kvN "reglock" 1 ++ kvN "nrange" (regionN (s.rdN src 83))))

/-- A range's continuation line; frequencies in Hz. -/
def rangeLine (r : Range) : String :=
  "flo=" ++ toString (100 * r.flo) ++ kvN "fhi" (100 * r.fhi) ++ kvI "pmax" r.pmax ++ kvB "lbt" r.lbt ++
    kvN "duty" r.duty ++ kvN "dwin" r.dwin ++ kvI "lbtthr" r.lbtthr ++ kvN "lbtmin" r.lbtmin ++ kvN "txmax" r.txmax

/-- REGION GET. -/
def execRegionGet (s : State) : Out :=
  s.command true true (fun s =>
    match s.region with
    | none => s.ok (kvN "reglock" 0)
    | some ws => s.okWith ((List.range (regionN ws)).map (fun j => rangeLine (regionRange ws j)))
        (kv "pa" (if regionExt ws then "EXT" else "INT") ++ kvN "nrange" (regionN ws) ++
          kvN "vctlmax" (field (ws.getD 1 0) 11 0)))

end Sys2Proof.Machine
end

