-- ==== Sys2Proof/Machine/MxRun.lean ====
section
/-! DEFINITION. CAL, POWER, MODE, PORT, TIME and GNSS, and NMEA sentences (R19, R45, R66, R75, R107, R203, R204, R302,
R304, R327 to R329, R336, R339, R360 to R362, R382, R386, R405). -/

namespace Sys2Proof.Machine

open Sys2Proof

/-! ### CAL (R327, R405, R407) -/

/-- CAL RUN: a long operation until the parts it names have been measured. -/
def execCalRun (part : Option CalPart) (s : State) : Out :=
  s.command true true (fun s =>
    let ps := match part with | some p => [p] | none => allParts
    (s.calRequest ps ps).beginLong .calRun none)

/-- CAL GET. -/
def execCalGet (s : State) : Out :=
  s.command true true (fun s => s.ok (s.calFigures ++ kvN "frame" s.cal.figFrame.toNat))

/-- CAL CFG. -/
def execCalCfg (n : Nat) (s : State) : Out :=
  s.command true true (fun s => if 20 < n then s.badArg else (s.calCfg (place n 11)).ok (kvN "tdelta" n))

/-! ### A `+OK` that comes before an action (R304, R336, R382) -/

/-- Answer the current command with a line that must be enqueued and, where `sent`, sent before an action. -/
def State.answerThen (s : State) (fin : String) (act : AfterSend) (sent : Bool) : State :=
  let c := s.curLine
  let t := s.putResponse c true [] fin
  ({ t with interp := { t.interp with cur := none, wait := some { port := c.port, act := act, sent := sent } } }).settle

/-- The current command holds the interpreter busy, and its final line is enqueued at once. -/
def State.longThen (s : State) (k : LongKind) (fin : String) (act : AfterSend) (sent : Bool) : State :=
  let c := s.curLine
  let t := s.beginLong k none
  ({ t with interp := { t.interp with cur := some c } }).answerThen fin act sent

/-! ### POWER (R75, R76, R304, R327, R380, R382, R386) -/

def powerText : PwrState → String
  | .run => "RUN" | .doze => "DOZE" | .standby => "STANDBY" | .sleep => "SLEEP"

def bankMask (l : List Nat) : Byte := BitVec.ofNat 8 (maskOf l)

/-- The orders outstanding at a forced command are aborted. -/
def State.forceAbort (s : State) : State := if s.isRelay then s else s.abortAll

/-- AFW writes its plan where PWR_PLANPTR points (R384). -/
def State.storePlan (s : State) : State :=
  let t := s.wrN Config.planAddr ((List.range 1280).map s.basePlan.get0)
  { t with pwr := { t.pwr with planPtr := if s.seq.cur.isSome then BitVec.ofNat 24 Config.planAddr else 0 } }

/-- POWER RUN, DOZE, STANDBY and SLEEP. -/
def execPower (st : PwrState) (force : Bool) (banks : Option (List Nat)) (s : State) : Out :=
  s.command true false (fun s =>
    let deep := st == .standby || st == .sleep
    if !optOk' banks then s.badArg
    else if deep && !s.isRelay && !s.afw.orders.isEmpty && !force then s.outstanding
    else
      let line := "+OK" ++ kv "state" (powerText st)
      if st == s.pwr.state then s.respond [] line
      else match st with
        | .run => (s.pwrCtl 0).beginLong .power (some line)
        | .doze => (s.pwrCtl 1).beginLong .power (some line)
        | .standby =>
          let t := s.forceAbort.storePlan
          let t := { t with pwr := { t.pwr with bankcfg := match banks with | some l => bankMask l | none => 0xFF } }
          t.longThen .power line .standby (s.curLine.port != .s)
        | .sleep => s.forceAbort.storePlan.longThen .power line .sleep (s.curLine.port != .s))
where
  optOk' : Option (List Nat) → Bool
    | some l => l.all (· ≤ 7)
    | none => true

/-- The banks of a mask, lowest first. -/
def bankList (m : Byte) : String :=
  let l := (List.range 8).filter (fun i => m.getLsbD i)
  if l.isEmpty then "NONE" else joinWith "," (l.map (toString ·))

/-- POWER GET. -/
def execPowerGet (s : State) : Out :=
  s.command true true (fun s => s.ok (kv "state" (powerText s.pwr.state) ++ kv "banks" (bankList s.pwr.bankcfg)))

/-! ### MODE (R19, R203, R204, R304, R327) -/

/-- Does the upstream beacon channel lie inside W0, on the bins of W0 and aligned for the beacon's class (R204)? -/
def upstreamFits (upfreq w0cen cls : Nat) : Bool :=
  let w := binsOf cls
  let d : Int := 2 * (upfreq : Int) - 2 * (w0cen : Int) - 125 * (w : Int)
  let b := d.fdiv 250 + 128
  d % 250 == 0 && decide (0 ≤ b) && decide (b + (w : Int) ≤ 256) && b % (w : Int) == 0

/-- The relay configuration of the keys, when each is present and in its range; frequencies in Hz. -/
def relayOf (a : RelayArgs) (cls : Nat) : Option RelayCfg :=
  match a.addr, a.depth, a.up, a.upfreq, a.w0cen with
  | some addr, some depth, some up, some upf, some cen =>
    let pidx := a.pidx.getD 0
    let pc := a.pcount.getD 1
    if unitOk addr && (depth == 1 || depth == 2) && (if depth == 1 then up == 0 else unitOk up) && upf % 100 == 0 &&
       decide (136000000 ≤ upf) && decide (upf ≤ 960000000) && cen % 100 == 0 && cen != 0 && centreOk (cen / 100) &&
       decide (1 ≤ pc) && decide (pc ≤ 16) && decide (pidx < pc) && upstreamFits (upf / 100) (cen / 100) cls then
      some ⟨lo16 addr, depth, lo16 up, upf / 100, cen / 100, pidx, pc⟩
    else none
  | _, _, _, _, _ => none

/-- The mode block of a MODE SET line; none for BAD_ARG. -/
def State.modeBlock (s : State) (relay : Bool) (a : RelayArgs) : Option (List Word) :=
  if relay then (relayOf a (s.afw.current.cls 0)).map RelayCfg.toBlock
  else if a = {} then some coordBlock else none

/-- MODE SET (R19): `+OK`, then the restart through MODE_SET once the line has been sent. -/
def execModeSetCommand (force relay : Bool) (a : RelayArgs) (s : State) : Out :=
  s.command true true (fun s =>
    match s.modeBlock relay a with
    | none => s.badArg
    | some b =>
      if !s.afw.orders.isEmpty && !force then s.outstanding
      else s.forceAbort.longThen .modeSet ("+OK" ++ kv "mode" (if relay then "RELAY" else "COORD")) (.modeSet b) true)

/-- The name of the relay state (R211, R213). -/
def State.rstateText (s : State) : String :=
  if s.seq.rstate = 0 then "NONE" else if s.seq.rstate = 1 then "SEARCH" else if s.seq.rstate = 2 then "TRACK"
  else if s.seq.orphan then "ORPHAN" else "HOLDOVER"

def State.modeText (s : State) : String := if s.isRelay then "RELAY" else "COORD"

/-- MODE GET. -/
def execModeGetCommand (s : State) : Out :=
  s.command true true (fun s =>
    s.ok (kv "mode" s.modeText ++ (match s.relay with
      | none => ""
      | some r => kvH "addr" 4 r.addr.toNat ++ kvN "depth" r.depth ++ kvH "up" 4 r.upstream.toNat ++
          kvN "upfreq" (100 * r.upfreq) ++ kvN "w0cen" (100 * r.w0cen) ++ kvN "pidx" r.pidx ++ kvN "pcount" r.pcount ++
          kv "rstate" s.rstateText)))

/-! ### PORT (R302, R308, R328, R339) -/

def portName : MPort → String
  | .a => "A" | .b => "B" | .s => "S"

def subsText (l : List EvClass) : String :=
  let names := [(EvClass.disp, "DISP"), (.alarm, "ALARM"), (.cal, "CAL"), (.rpt, "RPT"), (.log, "LOG")]
  let on := names.filter (fun x => l.contains x.1)
  if on.isEmpty then "NONE" else joinWith "," (on.map (·.2))

def State.portRate (s : State) : MPort → Option Nat
  | .a => some (rateOf s.porta.div.toNat)
  | .b => some (rateOf s.portb.div.toNat)
  | .s => none

/-- `+OK` to the current command, with the settings of port p that take effect once it is enqueued (R302). -/
def State.respondSet (s : State) (p : MPort) (a : PortArgs) (pairs : String) : State :=
  let t := s.putResponse s.curLine false [] ("+OK" ++ pairs) (some (p, a))
  { t with interp := { t.interp with cur := none } }

/-- PORT. -/
def execPort (p : MPort) (a : PortArgs) (s : State) : Out :=
  s.command true true (fun s =>
    let l := s.lines p
    if (a.baud.isSome && p == .s) || !optOk a.baud (fun b => decide (1200 ≤ b) && decide (b ≤ 3072000)) ||
       (match a.sub with | some x => x.contains .ready || x.contains .safe | none => false) then s.badArg
    else
      let rate := match a.baud with | some b => some (rateOf (divFor b)) | none => s.portRate p
      s.respondSet p a (kv "port" (portName p) ++ kv "mode" (if a.gen.getD l.gen then "GEN" else "TYPED") ++
        (match rate with | some r => kvN "baud" r | none => "") ++ kv "sub" (subsText (a.sub.getD l.subs))))

/-! ### TIME (R45 to R47, R329, R361) -/

/-- UTC of a frame under the offset, or NONE. -/
def State.utcOf (s : State) (f : Nat) : String :=
  match s.afw.utc with
  | none => "NONE"
  | some u => if u + (f : Int) < 0 then "NONE" else utcText (u + (f : Int)).toNat

def usrcText : UtcSrc → String
  | .host => "HOST" | .nmea => "NMEA" | .beacon => "BEACON"

/-- TIME. -/
def execTime (s : State) : Out :=
  s.command true true (fun s =>
    s.ok (kvN "frame" s.frm ++ kvN "fic" s.seq.fic.toNat ++ kvN "cir" s.seq.cir.toNat ++ kvN "rot" s.seq.rot.toNat ++
      kv "utc" (s.utcOf s.frm) ++ kv "usrc" (usrcText s.afw.usrc) ++
      kv "fsrc" (if s.isRelay then "BEACON" else if s.seq.ppsen then "PPS" else "FREE") ++ kvB "ppslock" s.seq.ppsLock ++
      kvB "holdover" s.seq.holdover ++ kvB "steppend" s.seq.stepPend))

/-- TIME SET: a label, no boundary moves. -/
def execTimeSet (utc : Nat) (frame : Option Nat) (s : State) : Out :=
  s.command false true (fun s =>
    let f := frame.getD (s.frm + 1)
    if s.afw.nmeaOn then s.err "WRONG_STATE"
    else if f ≤ s.frm then s.badArg
    else ({ s with afw := { s.afw with utc := some ((utc : Int) - (f : Int)), usrc := .host } }).ok
      (kvN "frame" f ++ kv "utc" (utcText utc)))

/-- TIME NMEA. -/
def execTimeNmea (on : Nat) (s : State) : Out :=
  s.command false true (fun s =>
    if 1 < on then s.badArg else ({ s with afw := { s.afw with nmeaOn := on == 1 } }).ok (kvN "on" on))

/-- TIME PPS: SEQ_TCFG.PPSEN. -/
def execTimePps (on : Nat) (s : State) : Out :=
  s.command false true (fun s =>
    if 1 < on then s.badArg else ({ s with seq := { s.seq with ppsen := on == 1 } }).ok (kvN "on" on))

/-- The frames in which the PLAN page would change if TIME CYCLE executed k Cycles later. -/
def State.cycleMarks (s : State) (cyc rot k : Nat) : List Nat :=
  let c := s.seq.cycLen.toNat
  let cir := s.seq.cir.toNat + k
  let rl := max 1 s.seq.rotLen.toNat
  let at0 := s.cycleAt + k * c
  (if cyc = c then [] else [at0]) ++ (if rot = rl then [] else [at0 + (rl - 1 - cir % rl) * cyc])

/-- Is a change of the lengths too near to an increment, or to its own other half (R107)? -/
def State.cycleHeld (s : State) (cyc rot k : Nat) : Bool :=
  let es := s.cycleMarks cyc rot k
  es.any (fun e => !(heldBy s.cfgvMade e).isEmpty) ||
    (match es with | [a, b] => a != b && decide (b < a + 64) | _ => false)

/-- TIME CYCLE: the lengths from the next Cycle and Rotation boundary (R43). -/
def execTimeCycle (frames rot : Option Nat) (s : State) : Out :=
  s.command false true (fun s =>
    let cyc := frames.getD (s.seq.cycPend.getD s.seq.cycLen).toNat
    let ro := rot.getD (s.seq.rotPend.getD s.seq.rotLen).toNat
    if !optOk frames (fun v => decide (60 ≤ v) && decide (v ≤ 3600)) ||
       !optOk rot (fun v => decide (1 ≤ v) && decide (v ≤ 1008)) then s.badArg
    else if frames.isSome && !s.afw.orders.isEmpty then s.outstanding
    else if (frames.isSome || rot.isSome) && s.cycleHeld cyc ro 0 then
      let k := ((List.range 2100).find? (fun k => !s.cycleHeld cyc ro (k + 1))).getD 0
      s.err ("WRONG_STATE config changed recently" ++ kvF "after" (s.cycleAt + k * s.seq.cycLen.toNat))
    else
      let t := match frames with | some v => s.cyclen (lo16 v) | none => s
      let t := match rot with | some v => t.rotlen (lo16 v) | none => t
      t.ok (kvN "frames" cyc ++ kvN "rot" ro ++ kvB "pending" (t.seq.cycPend.isSome || t.seq.rotPend.isSome)))

/-! ### GNSS (R329, R360 to R362) -/

/-- The NMEA checksum: all characters between `$` and `*` combined by exclusive or. -/
def nmeaSum (l : List Byte) : Byte := l.foldl (· ^^^ ·) 0

def gnssByteOk (b : Byte) : Bool := decide (0x20 ≤ b.toNat) && decide (b.toNat ≤ 0x7E) && b != 0x24 && b != 0x2A

/-- GNSS SEND: the whole sentence goes on the GT_TXD queue, when it has room (R362). -/
def execGnssSend (data : List Byte) (s : State) : Out :=
  s.command true true (fun s =>
    if data.isEmpty || decide (80 < data.length) || !data.all gnssByteOk then s.badArg
    else
      s.sendGnss (0x24 :: data ++ [0x2A] ++ strBytes (hexN 2 (nmeaSum data).toNat) ++ [0x0D, 0x0A]))

/-- GNSS GET. -/
def execGnssGet (s : State) : Out :=
  s.command true true (fun s =>
    s.ok (kv "utc" (match s.timep.utc with | some u => utcText u | none => "NONE") ++ kvB "valid" s.timep.utc.isSome ++
      kvN "pps" s.timep.ppsCnt.toNat ++
      (match s.timep.lastPpsFrame with | some f => kvN "lastpps" f.toNat | none => kv "lastpps" "NONE")))

/-- A decimal number of digits alone. -/
def decimal (l : List Char) : Option Nat :=
  if l.isEmpty then none
  else l.foldl (fun n c => n.bind (fun v => if '0' ≤ c && c ≤ '9' then some (10 * v + (c.toNat - 48)) else none)) (some 0)

/-- Split a list of characters at a separator. -/
def splitChars (sep : Char) : List Char → List (List Char)
  | [] => [[]]
  | c :: r =>
    match splitChars sep r with
    | [] => [[c]]
    | x :: xs => if c = sep then [] :: x :: xs else (c :: x) :: xs

/-- Seconds of the day from `hhmmss`, fractions dropped. -/
def nmeaTime (l : List Char) : Option Nat :=
  match decimal (l.take 2), decimal ((l.drop 2).take 2), decimal ((l.drop 4).take 2) with
  | some h, some m, some x => if h ≤ 23 ∧ m ≤ 59 ∧ x ≤ 60 then some (3600 * h + 60 * m + x) else none
  | _, _, _ => none

/-- Seconds since 2000-01-01 of a date and a time of day. -/
def utcSecs (y m d t : Nat) : Option Nat :=
  let n := daysOf y m d
  if 1 ≤ m ∧ m ≤ 12 ∧ 1 ≤ d ∧ d ≤ 31 ∧ 0 ≤ n then some (n.toNat * 86400 + t) else none

/-- The time that the fields of a sentence give (R360): RMC with status A, or ZDA. -/
def nmeaUtc (rmc : Bool) (f : List (List Char)) : Option Nat :=
  let g (i : Nat) : List Char := f.getD i []
  if rmc then
    (if g 2 = ['A'] then
      match decimal ((g 9).take 2), decimal (((g 9).drop 2).take 2), decimal ((g 9).drop 4), nmeaTime (g 1) with
      | some d, some m, some y, some t => if y ≤ 99 then utcSecs (2000 + y) m d t else none
      | _, _, _, _ => none
    else none)
  else match decimal (g 2), decimal (g 3), decimal (g 4), nmeaTime (g 1) with
    | some d, some m, some y, some t => utcSecs y m d t
    | _, _, _, _ => none

/-- Is a sentence an RMC or a ZDA sentence: `$`, two upper-case letters, the type? -/
def nmeaType (l : List Char) : Option Bool :=
  match l with
  | '$' :: a :: b :: r =>
    let up (c : Char) : Bool := 'A' ≤ c && c ≤ 'Z'
    if up a && up b && r.take 3 == ['R', 'M', 'C'] then some true
    else if up a && up b && r.take 3 == ['Z', 'D', 'A'] then some false
    else none
  | _ => none

/-- Body and checksum of a sentence without its CR LF; none when the checksum is absent or wrong. -/
def nmeaBody (l : List Char) : Option (List Char) :=
  let body := (l.drop 1).takeWhile (· != '*')
  let sum := (l.drop (1 + body.length)).drop 1
  if sum.map (fun c => c.toNat) = (hexN 2 (nmeaSum (body.map charByte)).toNat).toList.map (fun c => c.toNat) then some body
  else none

/-- NMEA_SENTENCE (R360 to R362): a sentence from GT_RXD, `$` to LF; with TIMEP_CFG.EN = 0 the input is off.
`clear` says that its LF came more than 10 ms away from the qualified edges before and after. -/
def execNmeaSentence (text : List Byte) (clear : Bool) (s : State) : Out :=
  let l := (text.map (fun b => Char.ofNat b.toNat)).filter (fun c => c != '\r' && c != '\n')
  if !s.afw.ready || s.safe.on || s.asleep || !bit s.timep.cfg 15 then .next s
  else match nmeaType l with
    | none => .next s
    | some rmc =>
      if 82 < text.length then .next (s.logEvent "NMEABAD" (kv "reason" "LENGTH"))
      else match nmeaBody l with
        | none => .next (s.logEvent "NMEABAD" (kv "reason" "CHECKSUM"))
        | some body =>
          match nmeaUtc rmc (splitChars ',' body) with
          | none => .next s
          | some t =>
            let u := { s with timep := { s.timep with utc := some t } }
            if s.afw.nmeaOn && s.seq.ppsLock && clear then
              .next { u with afw := { u.afw with utc := some ((t : Int) - (s.frm : Int)), usrc := .nmea } }
            else .next u

end Sys2Proof.Machine
end

