-- ==== Sys2Proof/Machine/MxSys.lean ====
section
/-! DEFINITION. KEY, FW, STAT, LOG, PEEK, POKE, SAFE and RESET (R232, R271, R273, R274, R281 to R283, R303, R330 to R336,
R427, R462). -/

namespace Sys2Proof.Machine

open Sys2Proof

/-! ### KEY (R271 to R274, R330) -/

/-- The key check value as six hex digits. -/
def kcvText (key : List Byte) : String := hex0x 6 (beNat (keyCheck key))

/-- The entry address inside a blob that unwraps. -/
def State.blobEntry (s : State) (blob : List Byte) : Nat :=
  match s.otp.secret with
  | none => 0
  | some sec => match kwUnwrap (wrappingKey sec) blob with | some p => beNat (p.take 2) | none => 0

/-- KEY IMPORT. -/
def execKeyImportCommand (blob : List Byte) (s : State) : Out :=
  s.command true true (fun s =>
    if blob.length ≠ 32 then s.badArg
    else
      let r := s.keyImport blob
      let e := s.blobEntry blob
      if r.1 = 0x00 then r.2.ok (kvH "entry" 4 e ++ kv "kcv" (kcvText (r.2.keyBytes e)))
      else if r.1 = 0x07 then r.2.err "UNWRAP"
      else if r.1 = 0x09 then r.2.err "DENIED"
      else r.2.badArg)

/-- KEY DEL: not the current broadcast slot. -/
def execKeyDel (entry : Nat) (s : State) : Out :=
  s.command true true (fun s =>
    if 0xFFFF < entry then s.badArg
    else if entry = bslotEntry s.aon.bslot then s.err "DENIED"
    else (s.keyDelete entry).ok (kvH "entry" 4 entry))

/-- KEY GET. -/
def execKeyGet (entry : Nat) (s : State) : Out :=
  s.command true true (fun s =>
    if 0xFFFF < entry then s.badArg
    else
      let k := s.keyBytes entry
      s.ok (kvH "entry" 4 entry ++ kvB "present" (keyPresent k) ++ (if keyPresent k then kv "kcv" (kcvText k) else "")))

/-- KEY SWITCH. -/
def execKeySwitch (s : State) : Out :=
  s.command false true (fun s =>
    if s.afw.orders.any (·.keySend) then s.outstanding
    else s.bkeySwitch.noBkey.ok (kvB "current" s.bkeySwitch.aon.bslot))

/-- KEY SECRET: the device secret, once. -/
def execKeySecret (data : List Byte) (s : State) : Out :=
  s.command true true (fun s =>
    if data.length ≠ 16 then s.badArg
    else
      let r := s.otpSecret data
      if r.1 = 0x00 then r.2.ok (kvN "otp" 1) else r.2.err "LOCKED")

/-! ### FW (R280 to R283, R331) -/

def stagingSize : Nat := 393216

/-- The staging area in the engine workspace (R183, R331; log entry 7). -/
def stagingAddr : Nat := 0x650000

/-- FW WRITE: bytes into the staging area, two to a word, the first in [7:0] as the container's words have them. -/
def execFwWrite (off : Nat) (data : List Byte) (s : State) : Out :=
  s.command true true (fun s =>
    if off % 2 != 0 || data.isEmpty || data.length % 2 != 0 || decide (120 < data.length) ||
       decide (stagingSize < off + data.length) then s.badArg
    else (s.wrN (stagingAddr + off / 2) (flashWords data)).ok (kvN "off" off ++ kvN "len" data.length))

/-- The staged container's header, and the container. -/
def State.stagedHeader (s : State) : List Word := s.rdN stagingAddr 64
def State.staged (s : State) : List Word := s.rdN stagingAddr (imgLength s.stagedHeader / 2)

def versionText (v : Nat) : String := hex0x 8 v

/-- The pairs that FW LOAD and FW VERIFY share. -/
def imgPairs (slot : Nat) (ws : List Word) (len : Bool) : String :=
  kvN "slot" slot ++ (if len then kvN "length" (imgLength ws) else "") ++ kvN "svn" (imgSvn ws) ++
    kv "version" (versionText (imgVersion ws))

/-- FW LOAD: the staged container is written to a slot of the flash and read back; `readback` is what the flash gives. -/
def execFwLoad (slot : Nat) (readback : List Word) (s : State) : Out :=
  s.command true true (fun s =>
    let line := if !s.headerValid s.stagedHeader then "-ERR VERIFY" ++ kvH "reason" 4 (Config.reason 22).toNat
      else if readback = s.staged then "+OK" ++ imgPairs slot s.stagedHeader true
      else "-ERR FLASH"
    if 1 < slot then s.badArg else s.beginLong .fwLoad (some line))

/-- FW VERIFY: every check of R281 on the container that the flash gives, without loading it. A transfer that gives no
header fails. -/
def execFwVerify (slot : Nat) (words : List Word) (s : State) : Out :=
  s.command true true (fun s =>
    let line := if words.length < 64 then "-ERR FLASH"
      else if s.imageOk words then
        "+OK" ++ imgPairs slot words false ++ kv "keyhash" (if s.otp.keyHash.isSome then "MATCH" else "UNSET")
      else "-ERR VERIFY" ++ kvH "reason" 4 (Config.reason 23).toNat
    if 1 < slot then s.badArg else s.beginLong .fwVerify (some line))

/-- FW GET. -/
def execFwGet (s : State) : Out :=
  s.command true true (fun s =>
    s.ok (kv "version" (versionText s.img.version.toNat) ++ kvN "slot" s.img.slot.toNat ++ kvN "svn" s.img.svn ++
      kvN "counter" s.otp.svn ++ kvH "tmon" 4 s.tmonVer.toNat ++
      kv "keyhash" (if s.otp.keyHash.isSome then "SET" else "UNSET")))

/-- FW KEYHASH. -/
def execFwKeyhash (s : State) : Out :=
  s.command true true (fun s =>
    let r := s.otpKeyhash
    if r.1 = 0x00 then r.2.ok (kv "keyhash" "SET") else r.2.err "LOCKED")

/-- FW COMMIT. -/
def execFwCommit (s : State) : Out :=
  s.command true true (fun s =>
    let r := s.svnCommit
    if r.1 = 0x00 then r.2.ok (kvN "counter" r.2.otp.svn) else r.2.err "DENIED")

/-! ### STAT (R332, R427) -/

/-- STAT part=SYS. -/
def State.statSys (s : State) : String :=
  kv "mode" s.modeText ++ kv "power" (powerText s.pwr.state) ++ (if s.isRelay then kv "rstate" s.rstateText else "") ++
    kvN "frame" s.frm ++ kvN "boot" s.aon.boot.toNat ++ kv "fw" (versionText s.img.version.toNat) ++
    kv "temp" (quarters s.cal.temp.toInt) ++ kvN "vddpa" s.cal.vpa.toNat ++ kvN "out" s.afw.orders.length ++
    (if s.sys.wmark = 0xFFFFFFFF then kv "wmark" "NONE" else kvF "wmark" s.sys.wmark.toNat) ++
    kvB "reglock" s.tx.regLock ++ kvB "safe" s.safe.on

/-- STAT part=SYS of TMON's handler. -/
def State.statSafe (s : State) : String :=
  kv "mode" s.modeText ++ kvN "frame" s.frm ++ kvN "boot" s.aon.boot.toNat ++ kvN "safe" 1 ++
    kvH "cause" 1 s.safe.cause.toNat

def State.statOrders (s : State) : String :=
  let x := s.afw.stats
  kvN "out" s.afw.orders.length ++ kvN "accepted" x.accepted ++ kvN "done" x.done ++ kvN "noack" x.noack ++
    kvN "blocked" x.blocked ++ kvN "cancelled" x.cancelled ++ kvN "aborted" x.aborted ++ kvN "rejected" x.rejected

/-- The line of a range: Ticks over the last DWIN + 1 frames. -/
def State.dutyLine (s : State) (j : Nat) : String :=
  let r := regionRange (s.region.getD []) j
  let b := s.gate.budget r j (s.frm : Int)
  "range=" ++ toString j ++ kvI "used" (dutyLimit r - b) ++ kvI "limit" (dutyLimit r) ++ kvI "budget" b

/-- Bins of a window whose noise floor is still NEW, on either antenna. -/
def State.newBins (s : State) (w : Bool) : Nat :=
  ((List.range 256).filter (fun b =>
    (s.floorOf ⟨.a, w, BitVec.ofNat 8 b⟩).2 || (s.floorOf ⟨.b, w, BitVec.ofNat 8 b⟩).2)).length

/-- AFW adds the read-clear counters to its totals (R332). -/
def State.addTotals (s : State) : State :=
  let x := s.afw.stats
  let cec := Vector.ofFn (fun i : Fin 32 => (x.cec.get i + (s.que.q.get i).cec.toNat) % 2 ^ 32)
  { s with
    afw := { s.afw with stats := { x with
      dropc := (x.dropc + s.lane.dropc.toNat) % 2 ^ 32, hdrc := (x.hdrc + s.lane.hdrc.toNat) % 2 ^ 32,
      filtc := (x.filtc + s.lane.filtc.toNat) % 2 ^ 32, resdrop := (x.resdrop + s.tx.resDrop.toNat) % 2 ^ 32,
      cec := cec } },
    que := { s.que with q := s.que.q.map (fun q => { q with cec := 0 }) },
    lane := { s.lane with dropc := 0, hdrc := 0, filtc := 0 },
    tx := { s.tx with resDrop := 0 } }

def State.statLanes (s : State) : String :=
  let x := s.afw.stats
  kvN "dropc" x.dropc ++ kvN "hdrc" x.hdrc ++ kvN "filtc" x.filtc ++ kvN "resdrop" x.resdrop

def State.queueLines (s : State) : List String :=
  (s.que.q.toList.zipIdx.filter (fun x => x.1.en)).map (fun x =>
    "q=" ++ toString x.2 ++ kvN "cec" (s.afw.stats.cec.toList.getD x.2 0))

/-- STAT: a snapshot at the execution moment. -/
def State.stat (s : State) (part : StatPart) : State :=
  match part with
  | .sys => s.ok s.statSys
  | .orders => s.ok s.statOrders
  | .duty => s.okWith ((List.range (regionN (s.region.getD []))).map s.dutyLine) ""
  | .radio => s.clearClip.ok (s.radioPairs ++ kvN "nfnew0" (s.newBins false) ++ kvN "nfnew1" (s.newBins true))
  | .lanes => s.addTotals.okWith s.addTotals.queueLines s.addTotals.statLanes

/-- STAT (R332); in safe-hold TMON answers part SYS. -/
def execStat (part : StatPart) (s : State) : Out :=
  if s.served && s.safe.on && part == .sys then .next (s.ok s.statSafe)
  else s.command true true (fun s => s.stat part)

/-! ### LOG (R333) -/

def LogEntry.line (e : LogEntry) : String :=
  "seq=" ++ toString e.seqNo ++ kvN "frame" e.frame.toNat ++ kv "kind" e.kind ++ e.pairs

/-- LOG. -/
def State.logAnswer (s : State) (start count : Nat) : State :=
  let held := s.afw.log
  let newest := s.afw.logNext - 1
  let oldest := match held with | e :: _ => e.seqNo | [] => 0
  let first := max start oldest
  let es := (held.filter (fun e => decide (first ≤ e.seqNo))).take count
  let f := match es with | e :: _ => e.seqNo | [] => 0
  let l := match es.getLast? with | some e => e.seqNo | none => 0
  s.okWith (es.map LogEntry.line) (kvN "first" f ++ kvN "last" l ++ kvN "newest" (if held.isEmpty then 0 else newest) ++
    (if !es.isEmpty && decide (start < oldest) then kvN "lost" (oldest - start) else ""))

def execLog (fromSeq count : Option Nat) (s : State) : Out :=
  s.command true true (fun s =>
    let n := count.getD 16
    if n = 0 ∨ 32 < n ∨ optOk fromSeq isLong = false then s.badArg
    else s.logAnswer (max 1 (fromSeq.getD (s.afw.logNext - n))) n)

/-! ### PEEK and POKE (R232, R303, R334, R335) -/

/-- The interpreter's accesses are those of an application core; core A0 stands for it (log entry 36). -/
def afwCore : CoreId := .a0

/-- Is an address in a domain that is powered down: a bank that is off or drains (R389)? Registers stand outside the radio
domains (R434, log entry 38). -/
def State.addrDown (s : State) (a : Addr) : Bool :=
  match placeOf afwCore a with
  | .sram n => !s.pwr.bankOn.getLsbD (bankOf n) || s.drains (bankOf n)
  | _ => false

/-- AFW keeps the count of a read-clear counter that PEEK reads. -/
def State.keepCount (s : State) (n : Nat) : State :=
  let x := s.afw.stats
  let y := if n = 0x3083 then { x with dropc := x.dropc + s.lane.dropc.toNat }
    else if n = 0x3084 then { x with hdrc := x.hdrc + s.lane.hdrc.toNat }
    else if n = 0x3085 then { x with filtc := x.filtc + s.lane.filtc.toNat }
    else if n = 0x4003 then { x with resdrop := x.resdrop + s.tx.resDrop.toNat }
    else if h : 0x60A0 ≤ n ∧ n < 0x60C0 then
      let i : Fin 32 := ⟨n - 0x60A0, by omega⟩
      { x with cec := x.cec.set i (x.cec.get i + (s.que.q.get i).cec.toNat) }
    else x
  { s with afw := { s.afw with stats := y } }

/-- One word of PEEK; a word with an uncorrectable error comes back as stored. -/
def State.peekWord (s : State) (a : Addr) : Word × State :=
  let t := match placeOf afwCore a with | .page n => s.keepCount n | _ => s
  match t.dataRead afwCore a with
  | .ok v u => (v, u)
  | .trap _ _ u => (u.rd a.toNat, u)

def State.peekWords (s : State) (a : Addr) : Nat → List Word × State
  | 0 => ([], s)
  | n + 1 =>
    let r := s.peekWord a
    let t := r.2.peekWords (a + 1) n
    (r.1 :: t.1, t.2)

/-- PEEK. -/
def execPeek (addr : Nat) (count : Option Nat) (s : State) : Out :=
  s.command true true (fun s =>
    let n := count.getD 1
    let a := BitVec.ofNat 24 addr
    if 0xFFFFFF < addr ∨ n = 0 ∨ 60 < n then s.badArg
    else
      let down := (List.range n).any (fun i => s.addrDown (a + BitVec.ofNat 24 i))
      let r := s.peekWords a n
      let line := "+OK" ++ kvH "addr" 6 addr ++ kv "data" (String.join (r.1.map (fun w => hexN 4 w.toNat)))
      if down then r.2.beginLong .peekPoke (some line) else r.2.respond [] line)

/-- Addresses that hold reservations and what carries them (R335). -/
def pokeHeld (a : Addr) : Bool :=
  let n := a.toNat
  n ≤ 0x57FFFF || (0xFF1000 ≤ n && n < 0xFF5000) || (0xFF6000 ≤ n && n < 0xFF7000)

def State.pokeWords (s : State) (a : Addr) : List Word → State
  | [] => s
  | v :: r => (match s.dataWrite afwCore a v with
    | .ok _ u => u
    | .trap _ _ u => u).pokeWords (a + 1) r

/-- POKE. -/
def execPoke (addr : Nat) (data : List Word) (s : State) : Out :=
  s.command true true (fun s =>
    let a := BitVec.ofNat 24 addr
    let as := (List.range data.length).map (fun i => a + BitVec.ofNat 24 i)
    if 0xFFFFFF < addr ∨ data.isEmpty = true ∨ 60 < data.length then s.badArg
    else if !s.afw.orders.isEmpty && as.any pokeHeld then s.outstanding
    else
      let t := s.pokeWords a data
      if as.any s.addrDown then t.beginLong .peekPoke (some "+OK") else t.respond [] "+OK")

/-! ### SAFE and RESET (R336, R427) -/

/-- SAFE. -/
def execSafe (s : State) : Out :=
  if s.served && s.safe.on then
    .next (s.ok (kvN "safe" 1 ++ kvH "cause" 1 s.safe.cause.toNat ++ kvN "frame" s.safe.frame.toNat))
  else s.command true true (fun s => s.ok (kvN "safe" 0))

/-- SAFE ENTER: `+OK`, then, once it is enqueued, SAFE_ENTER with cause 0x5. -/
def execSafeEnterCommand (s : State) : Out := s.command true true (fun s => s.answerThen "+OK" .safeEnter false)

/-- RESET: `+OK`, then RESET_REQ once the line has been sent; in safe-hold TMON's handler does the same. -/
def execReset (s : State) : Out :=
  if s.served && s.safe.on then .next (s.answerThen "+OK" .reset true)
  else s.command true true (fun s => s.answerThen "+OK" .reset true)

end Sys2Proof.Machine
end

