-- ==== Sys2Proof/Machine/Grammar.lean ====
section
/-! DEFINITION. The grammar of Mustix lines: tokens, keywords and abbreviations, value types, argument lists
(R289 to R291, R294, R312). The keywords of a line are kept in upper case. -/

namespace Sys2Proof.Machine

open Sys2Proof

/-! ### Characters -/

def upChar (c : Char) : Char := if 'a' ≤ c ∧ c ≤ 'z' then Char.ofNat (c.toNat - 32) else c

def upText (l : List Char) : List Char := l.map upChar

def hexVal (c : Char) : Option Nat :=
  if '0' ≤ c ∧ c ≤ '9' then some (c.toNat - 48)
  else if 'A' ≤ c ∧ c ≤ 'F' then some (c.toNat - 55)
  else if 'a' ≤ c ∧ c ≤ 'f' then some (c.toNat - 87)
  else none

/-- The values of a text's characters, when each has one. -/
def allVals (f : Char → Option Nat) : List Char → Option (List Nat)
  | [] => some []
  | c :: r => match f c, allVals f r with
    | some v, some vs => some (v :: vs)
    | _, _ => none

/-- Hex digits with underscores between them ignored (R290). -/
def hexDigits (l : List Char) : Option (List Nat) :=
  if l.head? == some '_' || l.getLast? == some '_' then none else allVals hexVal (l.filter (· != '_'))

def ofDigits (base : Nat) (ds : List Nat) : Nat := ds.foldl (fun n d => base * n + d) 0

/-! ### Numbers (R290) -/

/-- 1 to 10 decimal digits. -/
def decimal10 (l : List Char) : Option Nat := if 10 < l.length then none else decimal l

/-- INT or HEX. -/
def parseNum : List Char → Option Int
  | '0' :: 'x' :: r =>
    match hexDigits r with
    | some ds => if ds.isEmpty || decide (8 < ds.length) then none else some (ofDigits 16 ds : Int)
    | none => none
  | '-' :: r => (decimal10 r).bind (fun v => if v ≤ 2147483648 then some (-(v : Int)) else none)
  | l => (decimal10 l).bind (fun v => if v ≤ 4294967295 then some (v : Int) else none)

/-- FRAME. -/
def parseFrame : List Char → Option Nat
  | 'f' :: r => (decimal10 r).bind (fun v => if v ≤ 4294967295 then some v else none)
  | _ => none

def isLeap (y : Nat) : Bool := y % 4 == 0 && (y % 100 != 0 || y % 400 == 0)

def monthDays (y m : Nat) : Nat :=
  if m = 2 then (if isLeap y then 29 else 28) else if m = 4 ∨ m = 6 ∨ m = 9 ∨ m = 11 then 30 else 31

/-- TIME, as seconds since 2000-01-01. -/
def parseTime (l : List Char) : Option Nat :=
  let num (a n : Nat) : Option Nat := decimal ((l.drop a).take n)
  let at' (i : Nat) : Char := l.getD i ' '
  if l.length = 20 ∧ at' 4 = '-' ∧ at' 7 = '-' ∧ at' 10 = 'T' ∧ at' 13 = ':' ∧ at' 16 = ':' ∧ at' 19 = 'Z' then
    match num 0 4, num 5 2, num 8 2, num 11 2, num 14 2, num 17 2 with
    | some y, some mo, some d, some h, some mi, some x =>
      if 2000 ≤ y ∧ y ≤ 2135 ∧ 1 ≤ mo ∧ mo ≤ 12 ∧ 1 ≤ d ∧ d ≤ monthDays y mo ∧ h ≤ 23 ∧ mi ≤ 59 ∧ x ≤ 59 then
        some ((daysOf y mo d).toNat * 86400 + 3600 * h + 60 * mi + x)
      else none
    | _, _, _, _, _, _ => none
  else none

/-! ### BYTES and CH (R290) -/

def pairBytes : List Nat → List Byte
  | h :: l :: r => BitVec.ofNat 8 (16 * h + l) :: pairBytes r
  | _ => []

def b64Val (c : Char) : Option Nat :=
  if 'A' ≤ c ∧ c ≤ 'Z' then some (c.toNat - 65)
  else if 'a' ≤ c ∧ c ≤ 'z' then some (c.toNat - 71)
  else if '0' ≤ c ∧ c ≤ '9' then some (c.toNat + 4)
  else if c = '+' then some 62
  else if c = '/' then some 63
  else none

/-- Four base64 digits give three bytes; the last group may give fewer. -/
def b64Bytes : List Nat → List Byte
  | a :: b :: c :: d :: r =>
    let n := ofDigits 64 [a, b, c, d]
    BitVec.ofNat 8 (n / 65536) :: BitVec.ofNat 8 (n / 256) :: BitVec.ofNat 8 n :: b64Bytes r
  | [a, b, c] =>
    let n := ofDigits 64 [a, b, c]
    [BitVec.ofNat 8 (n / 1024), BitVec.ofNat 8 (n / 4)]
  | [a, b] => [BitVec.ofNat 8 (ofDigits 64 [a, b] / 16)]
  | _ => []

/-- Base64 text with its padding. -/
def parseB64 (l : List Char) : Option (List Byte) :=
  let pad := (l.reverse.takeWhile (· == '=')).length
  if l.length % 4 ≠ 0 ∨ 2 < pad then none else (allVals b64Val (l.take (l.length - pad))).map b64Bytes

def parseBytes : List Char → Option (List Byte)
  | '0' :: 'x' :: r => (hexDigits r).bind (fun ds => if ds.length % 2 = 0 then some (pairBytes ds) else none)
  | 'b' :: '6' :: '4' :: ':' :: r => parseB64 r
  | _ => none

/-- CH; its letters in either case. -/
def parseCh (l : List Char) : Option Chan :=
  match upText l with
  | 'W' :: w :: 'B' :: r =>
    match decimal10 r with
    | some b => if (w = '0' ∨ w = '1') ∧ b ≤ 255 then some ⟨w == '1', BitVec.ofNat 8 b⟩ else none
    | none => none
  | _ => none

/-! ### Keywords (R291, R294) -/

def charsLe : List Char → List Char → Bool
  | [], _ => true
  | _ :: _, [] => false
  | a :: r, b :: q => if a = b then charsLe r q else decide (a.toNat < b.toNat)

def insertWord (w : String) : List String → List String
  | [] => [w]
  | x :: r => if charsLe w.toList x.toList then w :: x :: r else x :: insertWord w r

/-- Alphabetical order. -/
def sortWords (l : List String) : List String := l.foldr insertWord []

/-- The keyword that a token selects; `miss` is the code when there is none. -/
def pick (typed : Bool) (cands : List String) (tok : List Char) (miss : String) : Except String String :=
  let t := if typed then upText tok else tok
  match cands.find? (fun c => c.toList == t) with
  | some c => .ok c
  | none =>
    if !typed || tok.isEmpty then .error miss
    else match cands.filter (fun c => t.isPrefixOf c.toList) with
      | [] => .error miss
      | [c] => .ok c
      | cs => .error ("AMBIGUOUS " ++ String.ofList tok ++ " matches " ++ joinWith " " (sortWords cs))

/-! ### Values -/

/-- The type of a key, narrowed to its range (R290, R312). -/
inductive VType where
  | num (lo hi : Int)
  | frame
  | deadline
  | time
  | word (ws : List String)
  /-- A number, or a keyword. -/
  | numOr (lo hi : Int) (ws : List String)
  /-- A LIST of numbers, or NONE when `none` is allowed. -/
  | nums (lo hi : Int) (noneOk : Bool)
  /-- A LIST of keywords, or NONE when allowed. -/
  | words (ws : List String) (noneOk : Bool)
  | bytes (lo hi : Nat)
  | ch
  | chOrNone
  | chs
  /-- Letters of a set, eight of them, with no separators. -/
  | eight (letters : List Char)
  deriving DecidableEq, Repr

/-- A value read from a line. -/
inductive Val where
  | num (v : Int)
  | frame (f : Nat)
  | utc (t : Nat)
  | word (w : String)
  | nums (l : List Int)
  | words (l : List String)
  | bytes (l : List Byte)
  | ch (c : Option Chan)
  | chs (l : List Chan)
  | letters (l : List Char)
  deriving DecidableEq, Repr

abbrev Args := List (String × Val)

def orBad {α β : Type} (f : α → β) : Option α → Except String β
  | some a => .ok (f a)
  | none => .error "BAD_ARG"

def numIn (lo hi : Int) (l : List Char) : Option Int :=
  (parseNum l).bind (fun v => if lo ≤ v ∧ v ≤ hi then some v else none)

/-- Every element, when each is a value. -/
def allSome {α : Type} : List (Option α) → Option (List α)
  | [] => some []
  | some a :: r => (allSome r).map (a :: ·)
  | none :: _ => none

/-- Every element, or the first error. -/
def allOk {α : Type} : List (Except String α) → Except String (List α)
  | [] => .ok []
  | .ok a :: r => (allOk r).map (a :: ·)
  | .error e :: _ => .error e

def isNone (typed : Bool) (v : List Char) : Bool := match pick typed ["NONE"] v "" with | .ok _ => true | .error _ => false

/-- Read a value of a type. -/
def parseVal (typed : Bool) (t : VType) (v : List Char) : Except String Val :=
  match t with
  | .num lo hi => orBad Val.num (numIn lo hi v)
  | .frame => orBad Val.frame (parseFrame v)
  | .deadline => match parseFrame v with
    | some f => .ok (.frame f)
    | none => orBad Val.utc (parseTime v)
  | .time => orBad Val.utc (parseTime v)
  | .word ws => (pick typed ws v "BAD_ARG").map Val.word
  | .numOr lo hi ws => match parseNum v with
    | some n => orBad Val.num (if lo ≤ n ∧ n ≤ hi then some n else none)
    | none => (pick typed ws v "BAD_ARG").map Val.word
  | .nums lo hi noneOk =>
    if noneOk && isNone typed v then .ok (.nums [])
    else orBad Val.nums (allSome ((splitChars ',' v).map (numIn lo hi)))
  | .words ws noneOk =>
    if noneOk && isNone typed v then .ok (.words [])
    else (allOk ((splitChars ',' v).map (fun w => pick typed ws w "BAD_ARG"))).map Val.words
  | .bytes lo hi => orBad Val.bytes ((parseBytes v).bind (fun b => if lo ≤ b.length ∧ b.length ≤ hi then some b else none))
  | .ch => orBad (fun c => Val.ch (some c)) (parseCh v)
  | .chOrNone => if isNone typed v then .ok (.ch none) else orBad (fun c => Val.ch (some c)) (parseCh v)
  | .chs => orBad Val.chs (allSome ((splitChars ',' v).map parseCh))
  | .eight ls =>
    let u := if typed then upText v else v
    if u.length = 8 ∧ u.all (ls.contains ·) = true then .ok (.letters u) else .error "BAD_ARG"

/-! ### Forms -/

/-- A key of a form. -/
structure Key where
  name : String
  ty : VType
  req : Bool

/-- What a line that parses leads to: a command that runs at once, or one whose row of the table carries what comes
from outside (log entry 37). -/
inductive Job where
  | run (f : State → Out)
  | outside

/-- A form: verb and positional words, keys, and the command it spells; none is BAD_ARG. -/
structure Form where
  words : List String
  keys : List Key
  job : Args → Option Job

/-- Tokens: separated by spaces (R289). -/
def tokens (l : List Char) : List (List Char) := (splitChars ' ' l).filter (fun t => !t.isEmpty)

/-- Verb and positional words, matched one after another among the forms that still fit. -/
def matchWords (typed : Bool) (fs : List Form) (k : Nat) : List (List Char) → Except String (Form × List (List Char))
  | [] => match fs.find? (fun f => f.words.length == k) with
    | some f => .ok (f, [])
    | none => .error "BAD_ARG"
  | t :: r =>
    if k ≠ 0 ∧ t.contains '=' = true then
      match fs.find? (fun f => f.words.length == k) with
      | some f => .ok (f, t :: r)
      | none => .error "BAD_ARG"
    else
      match pick typed ((fs.filterMap (fun f => f.words[k]?)).dedup) t "UNKNOWN" with
      | .error e => .error e
      | .ok w => matchWords typed (fs.filter (fun f => f.words[k]? == some w)) (k + 1) r

/-- The arguments, left to right. -/
def parseArgs (typed : Bool) (keys : List Key) : List (List Char) → Args → Except String Args
  | [], acc => if keys.all (fun k => !k.req || (acc.lookup k.name).isSome) then .ok acc else .error "BAD_ARG"
  | t :: r, acc =>
    if !t.contains '=' then .error "BAD_ARG"
    else
      let name := t.takeWhile (· != '=')
      match pick typed (keys.map (·.name)) name "BAD_ARG" with
      | .error e => .error e
      | .ok k =>
        if (acc.lookup k).isSome then .error "BAD_ARG"
        else match keys.find? (fun x => x.name == k) with
          | none => .error "BAD_ARG"
          | some key => match parseVal typed key.ty (t.drop (name.length + 1)) with
            | .error e => .error e
            | .ok v => parseArgs typed keys r (acc ++ [(k, v)])

/-- A line's text: its form and arguments, or the failure. A generated line without a verb has not the form of its
mode. -/
def parseLine (typed : Bool) (fs : List Form) (l : List Char) : Except String (Form × Args) :=
  match tokens l with
  | [] => .error "SYNTAX"
  | ts => match matchWords typed fs 0 ts with
    | .error e => .error e
    | .ok (f, r) => (parseArgs typed f.keys r []).map (fun a => (f, a))

/-! ### Arguments by key -/

def aInt (a : Args) (k : String) : Option Int := match a.lookup k with | some (.num v) => some v | _ => none
def aNat (a : Args) (k : String) : Option Nat := (aInt a k).map Int.toNat
def aNatD (a : Args) (k : String) (d : Nat) : Nat := (aNat a k).getD d
def aFrame (a : Args) (k : String) : Option Nat := match a.lookup k with | some (.frame f) => some f | _ => none
def aWord (a : Args) (k : String) : Option String := match a.lookup k with | some (.word w) => some w | _ => none
def aWords (a : Args) (k : String) : Option (List String) := match a.lookup k with | some (.words l) => some l | _ => none
def aNats (a : Args) (k : String) : Option (List Nat) :=
  match a.lookup k with | some (.nums l) => some (l.map Int.toNat) | _ => none
def aBytes (a : Args) (k : String) : List Byte := match a.lookup k with | some (.bytes b) => b | _ => []
def aChan (a : Args) (k : String) : Option (Option Chan) := match a.lookup k with | some (.ch c) => some c | _ => none
def aChans (a : Args) (k : String) : Option (List Chan) := match a.lookup k with | some (.chs l) => some l | _ => none
def aLetters (a : Args) (k : String) : Option (List Char) :=
  match a.lookup k with | some (.letters l) => some l | _ => none
def aDeadline (a : Args) (k : String) : Deadline :=
  match a.lookup k with | some (.frame f) => .frame f | some (.utc t) => .utc t | _ => .frame 0
def aUtc (a : Args) (k : String) : Nat := match a.lookup k with | some (.utc t) => t | _ => 0
def has (a : Args) (k : String) : Bool := (a.lookup k).isSome

/-- The place of a word in a list. -/
def codeOf (ws : List String) (w : String) : Nat := ws.idxOf w

end Sys2Proof.Machine
end

