-- ==== Sys2Proof/Machine/Interp.lean ====
section
/-! DEFINITION. The command forms, HELP, and the service of waiting lines (R289 to R295, R301, R310 to R336, R427). -/

namespace Sys2Proof.Machine

open Sys2Proof

/-! ### Keys -/

def kOpt (name : String) (ty : VType) : Key := ⟨name, ty, false⟩
def kReq (name : String) (ty : VType) : Key := ⟨name, ty, true⟩

def tBit : VType := .num 0 1
def tWord : VType := .num 0 0xFFFF
def tLong : VType := .num 0 0xFFFFFFFF
def tFlow : VType := .num 0 0xFFFFFF
def tUnit : VType := .num 1 0xFFFE
/-- A unit address or 0x0000. -/
def tUnit0 : VType := .num 0 0xFFFE
def tGroup : VType := .num 0 4095
def tSrc : VType := .num 0x580000 0x77FFFF

def classWords : List String := ["12K5", "25K", "50K"]
def kindWords : List String := ["OUTLET", "METER", "HEAD", "SENSOR", "RELAY"]
def actWords : List String := ["SETPOINT", "FLOW", "VOLUME", "HOLD", "CLOSE", "SAFESTATE", "OPAQUE"]
def partWords : List String := ["ALL", "ADC", "LNA", "TXIQ", "LOL", "SYN", "PADET"]
def agcWords : List String := ["AUTO8", "AUTO1", "FIXED"]
def subWords : List String := ["DISP", "ALARM", "CAL", "RPT", "LOG"]
def statWords : List String := ["SYS", "ORDERS", "DUTY", "RADIO", "LANES"]

/-- Keys of the configuration that NODE SET and NODE CONFIG share (R315). -/
def configKeys (req : Bool) : List Key :=
  [⟨"P", .num 1 512, req⟩, ⟨"PH", .num 0 511, req⟩, ⟨"D", .num 0 5, req⟩, kOpt "UIDX" (.num 0 3), kOpt "RHO" (.num 0 3599),
    kOpt "RELAY1" tUnit0, kOpt "RELAY2" tUnit0, kOpt "WAKE" tBit, kOpt "WCODE" (.num 0 0xFFF), kOpt "PINIT" (.num (-128) 127)]

def importKeys : List Key := [kOpt "SRC" tSrc, kOpt "SEL" (.num 1 3), kOpt "FA" (.num 0 0xFFFFFF)]

def relayKeys : List Key :=
  [kOpt "ADDR" tUnit, kOpt "DEPTH" (.num 1 2), kOpt "UP" tUnit0, kOpt "UPFREQ" (.num 136000000 960000000),
    kOpt "W0CEN" (.num 31600000 958400000), kOpt "PIDX" (.num 0 15), kOpt "PCOUNT" (.num 1 16)]

/-! ### Arguments of the commands -/

def nodeKindOf (w : String) : NodeKind :=
  if w = "OUTLET" then .outlet else if w = "METER" then .meter else if w = "HEAD" then .head
  else if w = "SENSOR" then .sensor else .relay

def nodeArgsOf (a : Args) : NodeArgs :=
  { kind := (aWord a "KIND").map nodeKindOf, seg := aNat a "SEG", groups := aNats a "GROUPS", p := aNat a "P",
    ph := aNat a "PH", d := aNat a "D", uidx := aNat a "UIDX", rho := aNat a "RHO", relay1 := aNat a "RELAY1",
    relay2 := aNat a "RELAY2", wake := aNat a "WAKE", wcode := aNat a "WCODE", pinit := aInt a "PINIT" }

/-- Where an import block stands: src, or sel with fa (R315, R317); a flash block comes from outside. -/
def importJob (f : ImportSrc → State → Out) (a : Args) : Option Job :=
  match aNat a "SRC", aNat a "SEL", aNat a "FA" with
  | some x, none, none => some (.run (f (.sram x)))
  | none, some _, some _ => some .outside
  | _, _, _ => none

/-- The parameter of SAFESTATE: HOLD is 0 and CLOSE is 1 (R120, R319). -/
def safeVal (a : Args) : Option Nat :=
  match a.lookup "VAL" with
  | some (.num v) => if v = 0 ∨ v = 1 then some v.toNat else none
  | some (.word w) => some (if w = "CLOSE" then 1 else 0)
  | _ => none

/-- The action of an ORDER line; keys of another action are BAD_ARG. -/
def actionOf (a : Args) : Option Action :=
  let act := (aWord a "ACT").getD ""
  let plain := !has a "PORT" && !has a "BODY"
  if act = "OPAQUE" then
    (if has a "VAL" then none
     else match aNat a "PORT", a.lookup "BODY" with
       | some p, some (.bytes b) => some (.opaqueBody p b)
       | _, _ => none)
  else if !plain then none
  else if act = "HOLD" then (if has a "VAL" then none else some .hold)
  else if act = "CLOSE" then (if has a "VAL" then none else some .close)
  else if act = "SAFESTATE" then (safeVal a).map .safestate
  else match aNat a "VAL" with
    | none => none
    | some v =>
      if act = "SETPOINT" then (if v ≤ 1000 then some (.setpoint v) else none)
      else if act = "FLOW" then (if v ≤ 0xFFFFFF then some (.flow v) else none)
      else (if 1 ≤ v then some (.volume v) else none)

/-- ORDER: exactly one of unit and grp (R319). -/
def orderJob (a : Args) : Option Job :=
  let tgt : Option Target := match aNat a "UNIT", aNat a "GRP" with
    | some u, none => some (.unit u)
    | none, some g => some (.grp g)
    | _, _ => none
  match tgt, actionOf a with
  | some t, some x => some (.run (execOrder t x (aDeadline a "DL") (aNatD a "RETRIES" 0)))
  | _, _ => none

def wakeJob (a : Args) : Option Job :=
  if has a "UNIT" == has a "WCODE" then none
  else some (.run (execWake { unit := aNat a "UNIT", wcode := aNat a "WCODE", via := aNat a "VIA", slots := aNat a "SLOTS",
                              after := aFrame a "AFTER" }))

def roleOfLetter (c : Char) : Nat :=
  if c = 'B' then 1 else if c = 'K' then 2 else if c = 'U' then 3 else if c = 'D' then 4 else if c = 'P' then 5
  else if c = 'W' then 7 else 0

def planArgsOf (a : Args) : PlanArgs :=
  { roles := (aLetters a "ROLES").map (·.map roleOfLetter), classes := (aWords a "CLASSES").map (·.map (codeOf classWords)),
    fec := (aLetters a "FEC").map (·.map (· == '1')), bch := (aChan a "BCH").bind id, dch := aChans a "DCH",
    wch := aChan a "WCH", wclass := (aWord a "WCLASS").map (codeOf classWords), pwr := aInt a "PWR" }

/-- RADIO TX: len with PKT alone, wcode with WAKE alone (R325). -/
def txJob (a : Args) : Option Job :=
  let kind := (aWord a "KIND").getD ""
  let cls := codeOf classWords ((aWord a "CLASS").getD "")
  if (has a "LEN" && kind != "PKT") || (has a "WCODE" && kind != "WAKE") || decide (classMax cls < aNatD a "LEN" 0) then none
  else some .outside

def partOf (w : String) : Option CalPart :=
  if w = "ADC" then some .adc else if w = "LNA" then some .lna else if w = "TXIQ" then some .txiq
  else if w = "LOL" then some .lol else if w = "SYN" then some .syn else if w = "PADET" then some .padet else none

def antOf (w : String) : Ant := if w = "B" then .b else .a

def portOf (w : String) : MPort := if w = "A" then .a else if w = "B" then .b else .s

def classOf (w : String) : EvClass :=
  if w = "DISP" then .disp else if w = "ALARM" then .alarm else if w = "CAL" then .cal else if w = "RPT" then .rpt else .log

def statOf (w : String) : StatPart :=
  if w = "ORDERS" then .orders else if w = "DUTY" then .duty else if w = "RADIO" then .radio
  else if w = "LANES" then .lanes else .sys

def relayArgsOf (a : Args) : RelayArgs :=
  { addr := aNat a "ADDR", depth := aNat a "DEPTH", up := aNat a "UP", upfreq := aNat a "UPFREQ", w0cen := aNat a "W0CEN",
    pidx := aNat a "PIDX", pcount := aNat a "PCOUNT" }

def modeJob (force : Bool) (a : Args) : Option Job :=
  some (.run (execModeSetCommand force (aWord a "MODE" == some "RELAY") (relayArgsOf a)))

/-- POKE: one of val and data; data gives the words, the first byte of a pair high (R334). -/
def pokeJob (a : Args) : Option Job :=
  match aNat a "VAL", has a "DATA" with
  | some v, false => some (.run (execPoke (aNatD a "ADDR" 0) [lo16 v]))
  | none, true =>
    let b := aBytes a "DATA"
    if b.length % 2 = 0 then
      some (.run (execPoke (aNatD a "ADDR" 0)
        ((List.range (b.length / 2)).map (fun i => b.getD (2 * i) 0 ++ b.getD (2 * i + 1) 0))))
    else none
  | _, _ => none

/-! ### The forms, by the sections of 14_mustix_reference -/

def run1 (f : State → Out) : Args → Option Job := fun _ => some (.run f)

def unitArg (a : Args) : Nat := aNatD a "UNIT" 0
def segArg (a : Args) : Nat := aNatD a "SEG" 0

def unitForms : List Form :=
  [⟨["NODE", "SET"], kReq "UNIT" tUnit :: kOpt "KIND" (.word kindWords) :: kOpt "SEG" tGroup ::
      kOpt "GROUPS" (.nums 0 4095 true) :: configKeys false, fun a => some (.run (execNodeSet (unitArg a) (nodeArgsOf a)))⟩,
   ⟨["NODE", "GET"], [kReq "UNIT" tUnit], fun a => some (.run (execNodeGet (unitArg a)))⟩,
   ⟨["NODE", "DEL"], [kReq "UNIT" tUnit], fun a => some (.run (execNodeDel (unitArg a)))⟩,
   ⟨["NODE", "CONFIG"], kReq "UNIT" tUnit :: kReq "DL" .deadline :: kOpt "RETRIES" (.num 0 7) :: configKeys true,
      fun a => some (.run (execNodeConfig (unitArg a) (aDeadline a "DL") (aNatD a "RETRIES" 0) (nodeArgsOf a)))⟩,
   ⟨["NODE", "IMPORT"], importKeys, importJob execNodeImport⟩,
   ⟨["SEG", "SET"], [kReq "SEG" tGroup, kOpt "HEAD" tBit, kOpt "PARENT" tGroup, kOpt "SHARE" tWord, kOpt "LOSS" tWord,
      kOpt "MAXAGE" tWord, kOpt "USEMEAS" tBit, kOpt "QMIN" tFlow, kOpt "QMAX" tFlow, kOpt "METER" tUnit0],
      fun a => some (.run (execSegSet (segArg a)
        { head := aNat a "HEAD", parent := aNat a "PARENT", share := aNat a "SHARE", loss := aNat a "LOSS",
          maxage := aNat a "MAXAGE", usemeas := aNat a "USEMEAS", qmin := aNat a "QMIN", qmax := aNat a "QMAX",
          meter := aNat a "METER" }))⟩,
   ⟨["SEG", "GET"], [kReq "SEG" tGroup], fun a => some (.run (execSegGet (segArg a)))⟩,
   ⟨["SEG", "DEL"], [kReq "SEG" tGroup], fun a => some (.run (execSegDel (segArg a)))⟩,
   ⟨["SHARE", "SET"], [kReq "SEG" tGroup, kReq "SHARES" (.nums 0 0xFFFF false)],
      fun a => some (.run (execShareSet (segArg a) ((aNats a "SHARES").getD [])))⟩,
   ⟨["SHARE", "SHOW"], [kReq "SEG" tGroup], fun a => some (.run (execShareShow (segArg a)))⟩,
   ⟨["LEDGER", "SET"], [kReq "UNIT" tUnit, kOpt "ACTIVE" tBit, kOpt "HELD" tBit, kOpt "SHARE" tWord, kOpt "HYST" tWord,
      kOpt "ENT" tLong, kOpt "DELIV" tLong, kOpt "ENTBASE" tLong, kOpt "CARRY" tBit, kOpt "QMIN" tFlow, kOpt "QMAX" tFlow],
      fun a => some (.run (execLedgerSet (unitArg a)
        { active := aNat a "ACTIVE", held := aNat a "HELD", share := aNat a "SHARE", hyst := aNat a "HYST",
          ent := aNat a "ENT", deliv := aNat a "DELIV", entbase := aNat a "ENTBASE", carry := aNat a "CARRY",
          qmin := aNat a "QMIN", qmax := aNat a "QMAX" }))⟩,
   ⟨["LEDGER", "GET"], [kReq "UNIT" tUnit], fun a => some (.run (execLedgerGet (unitArg a)))⟩,
   ⟨["LEDGER", "ENGINE"], [kOpt "ENABLE" tBit, kOpt "STARTFIC" (.num 1 59), kOpt "DLFRAMES" (.num 60 3600),
      kOpt "RETRIES" (.num 0 7)],
      fun a => some (.run (execLedgerEngine
        (EngineArgs.mk (aNat a "ENABLE") (aNat a "STARTFIC") (aNat a "DLFRAMES") (aNat a "RETRIES"))))⟩,
   ⟨["LEDGER", "IMPORT"], importKeys, importJob execLedgerImport⟩]

def orderForms : List Form :=
  [⟨["ORDER"], [kOpt "UNIT" tUnit, kOpt "GRP" tGroup, kReq "ACT" (.word actWords),
      kOpt "VAL" (.numOr 0 0xFFFFFFFF ["HOLD", "CLOSE"]), kOpt "PORT" (.num 0 0xEF), kOpt "BODY" (.bytes 1 120),
      kReq "DL" .deadline, kOpt "RETRIES" (.num 0 7)], orderJob⟩,
   ⟨["CANCEL"], [kReq "TICKET" (.num 1 0xFFFF)], fun a => some (.run (execCancel (aNatD a "TICKET" 0)))⟩,
   ⟨["WAKE"], [kOpt "UNIT" tUnit, kOpt "WCODE" (.num 0 0xFFF), kOpt "VIA" tUnit0, kOpt "SLOTS" (.num 2 16),
      kOpt "AFTER" .frame], wakeJob⟩]

def radioForms : List Form :=
  [⟨["PLAN", "SET"], [kOpt "ROLES" (.eight ['B', 'K', 'U', 'D', 'P', 'W', 'X']), kOpt "CLASSES" (.words classWords false),
      kOpt "FEC" (.eight ['0', '1']), kOpt "BCH" .ch, kOpt "DCH" .chs, kOpt "WCH" .chOrNone,
      kOpt "WCLASS" (.word classWords), kOpt "PWR" (.num (-80) 160)], fun a => some (.run (execPlanSet (planArgsOf a)))⟩,
   ⟨["PLAN", "UCT"], [kReq "START" (.num 0 127), kReq "CH" .chs, kOpt "N" (.num 1 128)],
      fun a => some (.run (execPlanUct (aNatD a "START" 0) ((aChans a "CH").getD []) (aNat a "N")))⟩,
   ⟨["PLAN", "COMMIT"], [], run1 execPlanCommitCommand⟩,
   ⟨["PLAN", "GET"], [kOpt "WHICH" (.word ["STAGED", "CURRENT"])],
      fun a => some (.run (execPlanGet (aWord a "WHICH" == some "STAGED")))⟩,
   ⟨["RADIO", "TEST"], [], run1 execRadioTest⟩,
   ⟨["RADIO", "END"], [], run1 execRadioEnd⟩,
   ⟨["RADIO", "TX"], [kReq "KIND" (.word ["CW", "WAKE", "PKT"]), kReq "CH" .ch, kReq "CLASS" (.word classWords),
      kReq "PWR" (.num (-80) 160), kOpt "LEN" (.num 0 0xFFFF), kOpt "WCODE" (.num 0 0xFFF)], txJob⟩,
   ⟨["RADIO", "WIN"], [kReq "WIN" tBit, kReq "CEN" (.num 0 958400000)],
      fun a => some (.run (execRadioWin (aNatD a "WIN" 0) (aNatD a "CEN" 0)))⟩,
   ⟨["RADIO", "AGC"], [kReq "ANT" (.word ["A", "B"]), kOpt "MODE" (.word agcWords), kOpt "MIN" (.num 0 15),
      kOpt "MAX" (.num 0 15), kOpt "FIX" (.num 0 15)],
      fun a => some (.run (execRadioAgc (antOf ((aWord a "ANT").getD ""))
        (AgcArgs.mk ((aWord a "MODE").map (codeOf agcWords)) (aNat a "MIN") (aNat a "MAX") (aNat a "FIX"))))⟩,
   ⟨["RADIO", "MEAS"], [kReq "CH" .ch, kOpt "KIND" (.word ["FLOOR", "POWER"])],
      fun a => match aChan a "CH" with
        | some (some c) => some (.run (execRadioMeas c (aWord a "KIND" == some "POWER")))
        | _ => none⟩,
   ⟨["RADIO", "SNIFF"], [kReq "ON" tBit], fun a => some (.run (execRadioSniff (aNatD a "ON" 0)))⟩,
   ⟨["RADIO", "GET"], [], run1 execRadioGet⟩,
   ⟨["REGION", "WRITE"], [kReq "SRC" tSrc], fun a => some (.run (execRegionWriteCommand (aNatD a "SRC" 0)))⟩,
   ⟨["REGION", "GET"], [], run1 execRegionGet⟩,
   ⟨["CAL", "RUN"], [kOpt "PART" (.word partWords)], fun a => some (.run (execCalRun ((aWord a "PART").bind partOf)))⟩,
   ⟨["CAL", "GET"], [], run1 execCalGet⟩,
   ⟨["CAL", "CFG"], [kReq "TDELTA" (.num 0 20)], fun a => some (.run (execCalCfg (aNatD a "TDELTA" 0)))⟩]

def bankKeys : List Key := [kOpt "BANKS" (.nums 0 7 false)]

def powerForm (w : String) (st : PwrState) : List Form :=
  [⟨["POWER", w], bankKeys, fun a => some (.run (execPower st false (aNats a "BANKS")))⟩,
   ⟨["POWER", w, "FORCE"], bankKeys, fun a => some (.run (execPower st true (aNats a "BANKS")))⟩]

def modeKeys : List Key := kReq "MODE" (.word ["COORD", "RELAY"]) :: relayKeys

def systemForms : List Form :=
  powerForm "RUN" .run ++ powerForm "DOZE" .doze ++ powerForm "STANDBY" .standby ++ powerForm "SLEEP" .sleep ++
  [⟨["POWER", "GET"], [], run1 execPowerGet⟩,
   ⟨["MODE", "SET"], modeKeys, modeJob false⟩,
   ⟨["MODE", "SET", "FORCE"], modeKeys, modeJob true⟩,
   ⟨["MODE", "GET"], [], run1 execModeGetCommand⟩,
   ⟨["PORT"], [kReq "PORT" (.word ["A", "B", "S"]), kOpt "MODE" (.word ["TYPED", "GEN"]), kOpt "BAUD" (.num 1200 3072000),
      kOpt "SUB" (.words subWords true)],
      fun a => some (.run (execPort (portOf ((aWord a "PORT").getD ""))
        { gen := (aWord a "MODE").map (· == "GEN"), baud := aNat a "BAUD", sub := (aWords a "SUB").map (·.map classOf) }))⟩,
   ⟨["TIME"], [], run1 execTime⟩,
   ⟨["TIME", "SET"], [kReq "UTC" .time, kOpt "FRAME" .frame], fun a => some (.run (execTimeSet (aUtc a "UTC") (aFrame a "FRAME")))⟩,
   ⟨["TIME", "NMEA"], [kReq "ON" tBit], fun a => some (.run (execTimeNmea (aNatD a "ON" 0)))⟩,
   ⟨["TIME", "PPS"], [kReq "ON" tBit], fun a => some (.run (execTimePps (aNatD a "ON" 0)))⟩,
   ⟨["TIME", "CYCLE"], [kOpt "FRAMES" (.num 60 3600), kOpt "ROT" (.num 1 1008)],
      fun a => some (.run (execTimeCycle (aNat a "FRAMES") (aNat a "ROT")))⟩,
   ⟨["GNSS", "SEND"], [kReq "DATA" (.bytes 1 80)], fun a => some (.run (execGnssSend (aBytes a "DATA")))⟩,
   ⟨["GNSS", "GET"], [], run1 execGnssGet⟩,
   ⟨["KEY", "IMPORT"], [kReq "BLOB" (.bytes 32 32)], fun a => some (.run (execKeyImportCommand (aBytes a "BLOB")))⟩,
   ⟨["KEY", "DEL"], [kReq "ENTRY" tWord], fun a => some (.run (execKeyDel (aNatD a "ENTRY" 0)))⟩,
   ⟨["KEY", "GET"], [kReq "ENTRY" tWord], fun a => some (.run (execKeyGet (aNatD a "ENTRY" 0)))⟩,
   ⟨["KEY", "SWITCH"], [], run1 execKeySwitch⟩,
   ⟨["KEY", "SEND"], [kReq "UNIT" tUnit, kReq "DL" .deadline, kOpt "RETRIES" (.num 0 7)],
      fun a => some (.run (execKeySend (unitArg a) (aDeadline a "DL") (aNatD a "RETRIES" 0)))⟩,
   ⟨["KEY", "SECRET"], [kReq "DATA" (.bytes 16 16)], fun a => some (.run (execKeySecret (aBytes a "DATA")))⟩,
   ⟨["FW", "WRITE"], [kReq "OFF" (.num 0 393214), kReq "DATA" (.bytes 2 120)],
      fun a => some (.run (execFwWrite (aNatD a "OFF" 0) (aBytes a "DATA")))⟩,
   ⟨["FW", "LOAD"], [kReq "SLOT" tBit], fun _ => some .outside⟩,
   ⟨["FW", "VERIFY"], [kReq "SLOT" tBit], fun _ => some .outside⟩,
   ⟨["FW", "GET"], [], run1 execFwGet⟩,
   ⟨["FW", "KEYHASH"], [], run1 execFwKeyhash⟩,
   ⟨["FW", "COMMIT"], [], run1 execFwCommit⟩,
   ⟨["STAT"], [kOpt "PART" (.word statWords)], fun a => some (.run (execStat (statOf ((aWord a "PART").getD "SYS"))))⟩,
   ⟨["LOG"], [kOpt "FROM" tLong, kOpt "COUNT" (.num 1 32)], fun a => some (.run (execLog (aNat a "FROM") (aNat a "COUNT")))⟩,
   ⟨["PEEK"], [kReq "ADDR" (.num 0 0xFFFFFF), kOpt "COUNT" (.num 1 60)],
      fun a => some (.run (execPeek (aNatD a "ADDR" 0) (aNat a "COUNT")))⟩,
   ⟨["POKE"], [kReq "ADDR" (.num 0 0xFFFFFF), kOpt "VAL" tWord, kOpt "DATA" (.bytes 2 120)], pokeJob⟩,
   ⟨["SAFE"], [], run1 execSafe⟩,
   ⟨["SAFE", "ENTER"], [], run1 execSafeEnterCommand⟩,
   ⟨["RESET"], [], run1 execReset⟩]

/-- Every form but HELP's. -/
def commandForms : List Form := unitForms ++ orderForms ++ radioForms ++ systemForms

/-! ### HELP (R293, R427) -/

/-- The verbs, in alphabetical order. -/
def verbs : List String := sortWords ("HELP" :: (commandForms.map (fun f => f.words.headD "")).dedup)

/-- The syntax of a form: optional keys in square brackets. -/
def formText (f : Form) : String :=
  joinWith " " (f.words ++ f.keys.map (fun k => if k.req then lower k.name ++ "=" else "[" ++ lower k.name ++ "=]"))
where
  lower (s : String) : String :=
    String.ofList (s.toList.map (fun c => if 'A' ≤ c ∧ c ≤ 'Z' then Char.ofNat (c.toNat + 32) else c))

/-- The syntax lines of a verb. -/
def verbLines (v : String) : List String :=
  if v = "HELP" then ["HELP", "HELP VERB"]
  else (commandForms.filter (fun f => f.words.headD "" == v)).map formText

/-- The commands that TMON's handler executes (R427). -/
def safeVerbs : List String := ["HELP", "SAFE", "STAT", "RESET"]

/-- HELP: the verbs, or the syntax of a verb's commands; in safe-hold the four commands. -/
def execHelp (verb : Option String) (s : State) : Out :=
  if s.served && s.safe.on then .next (s.okWith safeVerbs "")
  else s.command true true (fun s =>
    match verb with
    | none => s.okWith verbs ""
    | some v => if verbs.contains v then s.okWith (verbLines v) "" else s.err "UNKNOWN")

/-- All forms. -/
def allForms : List Form :=
  ⟨["HELP"], [], run1 (execHelp none)⟩ :: verbs.map (fun v => ⟨["HELP", v], [], run1 (execHelp (some v))⟩) ++ commandForms

/-! ### Service of lines (R295, R301, R427) -/

/-- The command that a checked line begins, or the failure. -/
def State.runText (s : State) (typed : Bool) (text : List Char) : Out :=
  match parseLine typed allForms text with
  | .error e => .next (s.err (if s.safe.on then "SAFE_HOLD" else e))
  | .ok (f, a) =>
    if s.safe.on && (!safeVerbs.contains (f.words.headD "") || f.words == ["SAFE", "ENTER"] ||
        !(aWord a "PART" == none || aWord a "PART" == some "SYS")) then .next (s.err "SAFE_HOLD")
    else match f.job a with
      | none => .next s.badArg
      | some .outside => .next s
      | some (.run g) => g s

/-- The text of a generated line after its tag and the check code at its end, when it has the form. -/
def genParts (tag : String) (line : String) : Option (List Char × Nat) :=
  let body := line.toList.drop 1
  let n := body.length
  if n < tag.length + 6 then none
  else match body.drop (n - 5) with
    | '*' :: h => (allVals hexVal h).map (fun ds => (body.take (n - 5), ofDigits 16 ds))
    | _ => none

/-- Check a line by its port's mode and begin its command (R295). -/
def State.serveLine (s : State) (p : MPort) (line : String) (bad : Bool) : Out :=
  let as (gen : Bool) (tag : String) : State := { s with interp := { s.interp with cur := some ⟨p, gen, tag, line⟩ } }
  if !(s.lines p).gen then (as false "").runText true line.toList
  else match tagOf line with
    | none => .next ((as true "").err "SYNTAX")
    | some tag =>
      let t := as true tag
      match genParts tag line, bad with
      | some (text, crc), false =>
        if (strCrc (String.ofList text)).toNat = crc then t.runText false (text.drop tag.length)
        else .next (t.err "CRC")
      | _, _ => .next (t.err "SYNTAX")

/-- The ports in the order of the round-robin after a port. -/
def portsAfter : MPort → List MPort
  | .a => [.b, .s, .a]
  | .b => [.s, .a, .b]
  | .s => [.a, .b, .s]

/-- May the interpreter take a line: it serves the ports and stays with no other command? -/
def State.mayTake (s : State) : Bool :=
  s.served && !s.busy && s.interp.cur.isNone && s.interp.wait.isNone && s.interp.gnss.isNone && s.interp.lines.isEmpty

/-- LINE_TAKE (R301): the next port's oldest line. -/
def execLineTake (s : State) : Out :=
  if !s.mayTake then .next s
  else match (portsAfter s.interp.lastPort).find? (fun p => !(s.lines p).waiting.isEmpty) with
    | none => .next s
    | some p =>
      let l := s.lines p
      match l.waiting with
      | [] => .next s
      | (line, bad) :: r =>
        let t := s.setLines p { l with waiting := r }
        ({ t with interp := { t.interp with lastPort := p } }).serveLine p line bad

end Sys2Proof.Machine
end

