-- ==== Sys2Proof/Machine/Dispatch.lean ====
section
/-! DEFINITION. What each command does: one arm per constructor, one direct call of its meaning. -/

namespace Sys2Proof.Machine

open Sys2Proof

def exec (i : Instr) (s : State) : Host.Outcome State Fault Refusal :=
  match i with
  | .pllLossOfLock elapsed => Sys2Proof.Machine.execPllLossOfLock elapsed s
  | .pllRelock => Sys2Proof.Machine.execPllRelock s
  | .clkOutcfgWrite v => Sys2Proof.Machine.execClkOutcfgWrite v s
  | .clkoutConfigApply => Sys2Proof.Machine.execClkoutConfigApply s
  | .clearChannelWindowOpen slot => Sys2Proof.Machine.execClearChannelWindowOpen slot s
  | .synthLock w0 w1 => Sys2Proof.Machine.execSynthLock w0 w1 s
  | .commitPoint slot cca => Sys2Proof.Machine.execCommitPoint slot cca s
  | .txRampUp det => Sys2Proof.Machine.execTxRampUp det s
  | .rampDownStart det => Sys2Proof.Machine.execRampDownStart det s
  | .txRampDownEnd power => Sys2Proof.Machine.execTxRampDownEnd power s
  | .blankingEnd => Sys2Proof.Machine.execBlankingEnd s
  | .synthUnlock elapsed => Sys2Proof.Machine.execSynthUnlock elapsed s
  | .txmaxCut => Sys2Proof.Machine.execTxmaxCut s
  | .slotBoundary => Sys2Proof.Machine.execSlotBoundary s
  | .agcDecision a b => Sys2Proof.Machine.execAgcDecision a b s
  | .noiseFloorUpdate e => Sys2Proof.Machine.execNoiseFloorUpdate e s
  | .frameBoundary temp vpa est => Sys2Proof.Machine.execFrameBoundary temp vpa est s
  | .latchPoint => Sys2Proof.Machine.execLatchPoint s
  | .planValidationEnd => Sys2Proof.Machine.execPlanValidationEnd s
  | .stepExtension => Sys2Proof.Machine.execStepExtension s
  | .seqTxarmSetWrite v => Sys2Proof.Machine.execSeqTxarmSetWrite v s
  | .seqTxarmClrWrite v => Sys2Proof.Machine.execSeqTxarmClrWrite v s
  | .seqCyclenWrite v => Sys2Proof.Machine.execSeqCyclenWrite v s
  | .seqRotlenWrite v => Sys2Proof.Machine.execSeqRotlenWrite v s
  | .seqTcfgWrite v => Sys2Proof.Machine.execSeqTcfgWrite v s
  | .seqFramelRead c => Sys2Proof.Machine.execSeqFramelRead c s
  | .seqSteplRead c => Sys2Proof.Machine.execSeqSteplRead c s
  | .ppsEdge long stamp => Sys2Proof.Machine.execPpsEdge long stamp s
  | .ppsHoldover => Sys2Proof.Machine.execPpsHoldover s
  | .upstreamBeaconReceived m desc => Sys2Proof.Machine.execUpstreamBeaconReceived m desc s
  | .upstreamBeaconMiss => Sys2Proof.Machine.execUpstreamBeaconMiss s
  | .relayOrphan => Sys2Proof.Machine.execRelayOrphan s
  | .downlinkBuild => Sys2Proof.Machine.execDownlinkBuild s
  | .lanePacketAccept lane p => Sys2Proof.Machine.execLanePacketAccept lane p s
  | .reportReceived desc => Sys2Proof.Machine.execReportReceived desc s
  | .ackReceived desc => Sys2Proof.Machine.execAckReceived desc s
  | .tryOutcomePoint ticket => Sys2Proof.Machine.execTryOutcomePoint ticket s
  | .watermarkExpiry => Sys2Proof.Machine.execWatermarkExpiry s
  | .upBundleReceived desc => Sys2Proof.Machine.execUpBundleReceived desc s
  | .relayLost relay => Sys2Proof.Machine.execRelayLost relay s
  | .downBundleReceived desc => Sys2Proof.Machine.execDownBundleReceived desc s
  | .apportionmentPass => Sys2Proof.Machine.execApportionmentPass s
  | .heldEngineOrderSubmit => Sys2Proof.Machine.execHeldEngineOrderSubmit s
  | .fMov c d s1 => Sys2Proof.Machine.execFMov c d s1 s
  | .fAdd c d a s1 => Sys2Proof.Machine.execFAdd c d a s1 s
  | .fSub c d a s1 => Sys2Proof.Machine.execFSub c d a s1 s
  | .fNeg c d s1 => Sys2Proof.Machine.execFNeg c d s1 s
  | .fAnd c d a s1 => Sys2Proof.Machine.execFAnd c d a s1 s
  | .fOr c d a s1 => Sys2Proof.Machine.execFOr c d a s1 s
  | .fXor c d a s1 => Sys2Proof.Machine.execFXor c d a s1 s
  | .fLsh c d a s1 => Sys2Proof.Machine.execFLsh c d a s1 s
  | .fAsh c d a s1 => Sys2Proof.Machine.execFAsh c d a s1 s
  | .fClt c d a s1 => Sys2Proof.Machine.execFClt c d a s1 s
  | .fCle c d a s1 => Sys2Proof.Machine.execFCle c d a s1 s
  | .fCeq c d a s1 => Sys2Proof.Machine.execFCeq c d a s1 s
  | .fCne c d a s1 => Sys2Proof.Machine.execFCne c d a s1 s
  | .fCult c d a s1 => Sys2Proof.Machine.execFCult c d a s1 s
  | .fCule c d a s1 => Sys2Proof.Machine.execFCule c d a s1 s
  | .fAbs c d s1 => Sys2Proof.Machine.execFAbs c d s1 s
  | .fDiv c d a s1 => Sys2Proof.Machine.execFDiv c d a s1 s
  | .fDivu c d a s1 => Sys2Proof.Machine.execFDivu c d a s1 s
  | .fAddu c d a s1 => Sys2Proof.Machine.execFAddu c d a s1 s
  | .fSubu c d a s1 => Sys2Proof.Machine.execFSubu c d a s1 s
  | .fMvi c d i1 => Sys2Proof.Machine.execFMvi c d i1 s
  | .fAddi c d i1 => Sys2Proof.Machine.execFAddi c d i1 s
  | .fLshi c d i1 => Sys2Proof.Machine.execFLshi c d i1 s
  | .fAshi c d i1 => Sys2Proof.Machine.execFAshi c d i1 s
  | .fLd c d m => Sys2Proof.Machine.execFLd c d m s
  | .fSt c s1 m => Sys2Proof.Machine.execFSt c s1 m s
  | .fLdd c k m => Sys2Proof.Machine.execFLdd c k m s
  | .fStd c k m => Sys2Proof.Machine.execFStd c k m s
  | .fMpy c u x y => Sys2Proof.Machine.execFMpy c u x y s
  | .fMac c u x y => Sys2Proof.Machine.execFMac c u x y s
  | .fMpyi c u x y => Sys2Proof.Machine.execFMpyi c u x y s
  | .fMpyu c u x y => Sys2Proof.Machine.execFMpyu c u x y s
  | .fMvl c d u => Sys2Proof.Machine.execFMvl c d u s
  | .fMvh c d u => Sys2Proof.Machine.execFMvh c d u s
  | .fMvg c d u => Sys2Proof.Machine.execFMvg c d u s
  | .fMva c u s1 => Sys2Proof.Machine.execFMva c u s1 s
  | .fAcc c u s1 => Sys2Proof.Machine.execFAcc c u s1 s
  | .fAccu c u s1 => Sys2Proof.Machine.execFAccu c u s1 s
  | .fSha c u s1 => Sys2Proof.Machine.execFSha c u s1 s
  | .fMvd c k u => Sys2Proof.Machine.execFMvd c k u s
  | .fAdda c u m => Sys2Proof.Machine.execFAdda c u m s
  | .fSuba c u m => Sys2Proof.Machine.execFSuba c u m s
  | .fMvp c p v exts => Sys2Proof.Machine.execFMvp c p v exts s
  | .fAddp c p k => Sys2Proof.Machine.execFAddp c p k s
  | .fMvpDk c p k => Sys2Proof.Machine.execFMvpDk c p k s
  | .fMvpl c d p => Sys2Proof.Machine.execFMvpl c d p s
  | .fMvph c d p => Sys2Proof.Machine.execFMvph c d p s
  | .fBz c s1 off ext => Sys2Proof.Machine.execFBz c s1 off ext s
  | .fBnz c s1 off ext => Sys2Proof.Machine.execFBnz c s1 off ext s
  | .fB c off ext => Sys2Proof.Machine.execFB c off ext s
  | .fCall c off ext slotWords => Sys2Proof.Machine.execFCall c off ext slotWords s
  | .fRpt c n => Sys2Proof.Machine.execFRpt c n s
  | .fRpti c n => Sys2Proof.Machine.execFRpti c n s
  | .fJr c s1 => Sys2Proof.Machine.execFJr c s1 s
  | .fCallr c s1 slotWords => Sys2Proof.Machine.execFCallr c s1 slotWords s
  | .fNop c => Sys2Proof.Machine.execFNop c s
  | .fRet c => Sys2Proof.Machine.execFRet c s
  | .fReti c => Sys2Proof.Machine.execFReti c s
  | .fRett c => Sys2Proof.Machine.execFRett c s
  | .fTrap c => Sys2Proof.Machine.execFTrap c s
  | .fMvcRead c d n => Sys2Proof.Machine.execFMvcRead c d n s
  | .fMvcWrite c n s1 => Sys2Proof.Machine.execFMvcWrite c n s1 s
  | .interruptEntry c => Sys2Proof.Machine.execInterruptEntry c s
  | .trapEntry c cause addr => Sys2Proof.Machine.execTrapEntry c cause addr s
  | .idleWake c => Sys2Proof.Machine.execIdleWake c s
  | .planCommit c => Sys2Proof.Machine.execPlanCommit c s
  | .windowSet c => Sys2Proof.Machine.execWindowSet c s
  | .wmarkSet c => Sys2Proof.Machine.execWmarkSet c s
  | .ccmOpen c => Sys2Proof.Machine.execCcmOpen c s
  | .ccmSeal c => Sys2Proof.Machine.execCcmSeal c s
  | .entrySeal c => Sys2Proof.Machine.execEntrySeal c s
  | .ackCheck c => Sys2Proof.Machine.execAckCheck c s
  | .bkeyBody c => Sys2Proof.Machine.execBkeyBody c s
  | .bkeySwitch c => Sys2Proof.Machine.execBkeySwitch c s
  | .keyImport c => Sys2Proof.Machine.execKeyImport c s
  | .keyDelete c => Sys2Proof.Machine.execKeyDelete c s
  | .keyQuery c => Sys2Proof.Machine.execKeyQuery c s
  | .modeSet c => Sys2Proof.Machine.execModeSet c s
  | .modeGet c => Sys2Proof.Machine.execModeGet c s
  | .safeEnter c => Sys2Proof.Machine.execSafeEnter c s
  | .resetReq c => Sys2Proof.Machine.execResetReq c s
  | .svnCommit c => Sys2Proof.Machine.execSvnCommit c s
  | .regionWrite c => Sys2Proof.Machine.execRegionWrite c s
  | .otpSecret c => Sys2Proof.Machine.execOtpSecret c s
  | .otpKeyhash c => Sys2Proof.Machine.execOtpKeyhash c s
  | .radioCheck c => Sys2Proof.Machine.execRadioCheck c s
  | .slowCallReply c => Sys2Proof.Machine.execSlowCallReply c s
  | .watchdogKick c v => Sys2Proof.Machine.execWatchdogKick c v s
  | .watchdogExpiry => Sys2Proof.Machine.execWatchdogExpiry s
  | .sysSoftWrite c v => Sys2Proof.Machine.execSysSoftWrite c v s
  | .sysQevselWrite c k v => Sys2Proof.Machine.execSysQevselWrite c k v s
  | .queuePush c n v => Sys2Proof.Machine.execQueuePush c n v s
  | .queuePop c n => Sys2Proof.Machine.execQueuePop c n s
  | .queCfgWrite n v => Sys2Proof.Machine.execQueCfgWrite n v s
  | .queBaseWrite n v => Sys2Proof.Machine.execQueBaseWrite n v s
  | .readClear c a => Sys2Proof.Machine.execReadClear c a s
  | .timepPpstslRead c => Sys2Proof.Machine.execTimepPpstslRead c s
  | .eccUaddrlRead c => Sys2Proof.Machine.execEccUaddrlRead c s
  | .registerWrite c a v => Sys2Proof.Machine.execRegisterWrite c a v s
  | .synInvalWrite v => Sys2Proof.Machine.execSynInvalWrite v s
  | .rxwAgccfgWrite ant v => Sys2Proof.Machine.execRxwAgccfgWrite ant v s
  | .txCfgWrite v => Sys2Proof.Machine.execTxCfgWrite v s
  | .portaDivWrite portB v => Sys2Proof.Machine.execPortaDivWrite portB v s
  | .pwrCtlRun => Sys2Proof.Machine.execPwrCtlRun s
  | .pwrCtlDoze => Sys2Proof.Machine.execPwrCtlDoze s
  | .pwrCtlStandby => Sys2Proof.Machine.execPwrCtlStandby s
  | .pwrCtlSleep => Sys2Proof.Machine.execPwrCtlSleep s
  | .standbyEntryBoundary => Sys2Proof.Machine.execStandbyEntryBoundary s
  | .sleepEntryComplete wakePin => Sys2Proof.Machine.execSleepEntryComplete wakePin s
  | .pwrBankoffWrite v => Sys2Proof.Machine.execPwrBankoffWrite v s
  | .pwrIdleWrite c v => Sys2Proof.Machine.execPwrIdleWrite c v s
  | .domainDrainEnd d => Sys2Proof.Machine.execDomainDrainEnd d s
  | .wakeSource w late => Sys2Proof.Machine.execWakeSource w late s
  | .resumedService => Sys2Proof.Machine.execResumedService s
  | .calibrationSlot m => Sys2Proof.Machine.execCalibrationSlot m s
  | .calibrationStep m => Sys2Proof.Machine.execCalibrationStep m s
  | .calCmdAdc => Sys2Proof.Machine.execCalCmdAdc s
  | .calCmdLna => Sys2Proof.Machine.execCalCmdLna s
  | .calCmdTxiq => Sys2Proof.Machine.execCalCmdTxiq s
  | .calCmdLol => Sys2Proof.Machine.execCalCmdLol s
  | .calCmdSyn => Sys2Proof.Machine.execCalCmdSyn s
  | .calCmdPadet => Sys2Proof.Machine.execCalCmdPadet s
  | .calCfgWrite v => Sys2Proof.Machine.execCalCfgWrite v s
  | .powerOnReset aonLost straps => Sys2Proof.Machine.execPowerOnReset aonLost straps s
  | .nreset ns straps coreLost => Sys2Proof.Machine.execNreset ns straps coreLost s
  | .imageAccept header0 header1 container => Sys2Proof.Machine.execImageAccept header0 header1 container s
  | .powerUpCalibration m => Sys2Proof.Machine.execPowerUpCalibration m s
  | .ready => Sys2Proof.Machine.execReady s
  | .loadFrame bytes frag => Sys2Proof.Machine.execLoadFrame bytes frag s
  | .goFrame bytes frag => Sys2Proof.Machine.execGoFrame bytes frag s
  | .safeHoldReport cut => Sys2Proof.Machine.execSafeHoldReport cut s
  | .safeAlarmReceived bytes => Sys2Proof.Machine.execSafeAlarmReceived bytes s
  | .uartCharacterRx p ch stopLow => Sys2Proof.Machine.execUartCharacterRx p ch stopLow s
  | .uartBreak p => Sys2Proof.Machine.execUartBreak p s
  | .lineComplete p => Sys2Proof.Machine.execLineComplete p s
  | .lineTake => Sys2Proof.Machine.execLineTake s
  | .longOperationEnd => Sys2Proof.Machine.execLongOperationEnd s
  | .eventEnqueue cls kind pairs => Sys2Proof.Machine.execEventEnqueue cls kind pairs s
  | .alertClear portB => Sys2Proof.Machine.execAlertClear portB s
  | .responseLineEnqueue => Sys2Proof.Machine.execResponseLineEnqueue s
  | .uaRdyUpdate => Sys2Proof.Machine.execUaRdyUpdate s
  | .portsFrame bytes extraBits => Sys2Proof.Machine.execPortsFrame bytes extraBits s
  | .portsTxaddWrite v => Sys2Proof.Machine.execPortsTxaddWrite v s
  | .portmTransferStart c v => Sys2Proof.Machine.execPortmTransferStart c v s
  | .portmSelectRelease v => Sys2Proof.Machine.execPortmSelectRelease v s
  | .portmTransferEnd inp => Sys2Proof.Machine.execPortmTransferEnd inp s
  | .nmeaSentence text clear => Sys2Proof.Machine.execNmeaSentence text clear s
  | .help verb => Sys2Proof.Machine.execHelp verb s
  | .nodeSet u a => Sys2Proof.Machine.execNodeSet u a s
  | .nodeGet u => Sys2Proof.Machine.execNodeGet u s
  | .nodeDel u => Sys2Proof.Machine.execNodeDel u s
  | .nodeConfig u dl retries a => Sys2Proof.Machine.execNodeConfig u dl retries a s
  | .nodeImport src => Sys2Proof.Machine.execNodeImport src s
  | .segSet seg a => Sys2Proof.Machine.execSegSet seg a s
  | .segGet seg => Sys2Proof.Machine.execSegGet seg s
  | .segDel seg => Sys2Proof.Machine.execSegDel seg s
  | .shareSet seg shares => Sys2Proof.Machine.execShareSet seg shares s
  | .shareShow seg => Sys2Proof.Machine.execShareShow seg s
  | .ledgerSet u a => Sys2Proof.Machine.execLedgerSet u a s
  | .ledgerGet u => Sys2Proof.Machine.execLedgerGet u s
  | .ledgerEngine a => Sys2Proof.Machine.execLedgerEngine a s
  | .ledgerImport src => Sys2Proof.Machine.execLedgerImport src s
  | .order tgt act dl retries => Sys2Proof.Machine.execOrder tgt act dl retries s
  | .cancel ticket => Sys2Proof.Machine.execCancel ticket s
  | .wake a => Sys2Proof.Machine.execWake a s
  | .planSet a => Sys2Proof.Machine.execPlanSet a s
  | .planUct start ch n => Sys2Proof.Machine.execPlanUct start ch n s
  | .planCommitCommand => Sys2Proof.Machine.execPlanCommitCommand s
  | .planGet staged => Sys2Proof.Machine.execPlanGet staged s
  | .radioTest => Sys2Proof.Machine.execRadioTest s
  | .radioEnd => Sys2Proof.Machine.execRadioEnd s
  | .radioTx kind ch cls pwr cca lockTick power cut => Sys2Proof.Machine.execRadioTx kind ch cls pwr cca lockTick power cut s
  | .radioWin win cen => Sys2Proof.Machine.execRadioWin win cen s
  | .radioAgc ant a => Sys2Proof.Machine.execRadioAgc ant a s
  | .radioMeas ch power => Sys2Proof.Machine.execRadioMeas ch power s
  | .radioSniff on => Sys2Proof.Machine.execRadioSniff on s
  | .radioGet => Sys2Proof.Machine.execRadioGet s
  | .regionWriteCommand src => Sys2Proof.Machine.execRegionWriteCommand src s
  | .regionGet => Sys2Proof.Machine.execRegionGet s
  | .calRun part => Sys2Proof.Machine.execCalRun part s
  | .calGet => Sys2Proof.Machine.execCalGet s
  | .calCfg tdelta => Sys2Proof.Machine.execCalCfg tdelta s
  | .power st force banks => Sys2Proof.Machine.execPower st force banks s
  | .powerGet => Sys2Proof.Machine.execPowerGet s
  | .modeSetCommand force relay a => Sys2Proof.Machine.execModeSetCommand force relay a s
  | .modeGetCommand => Sys2Proof.Machine.execModeGetCommand s
  | .port p a => Sys2Proof.Machine.execPort p a s
  | .time => Sys2Proof.Machine.execTime s
  | .timeSet utc frame => Sys2Proof.Machine.execTimeSet utc frame s
  | .timeNmea on => Sys2Proof.Machine.execTimeNmea on s
  | .timePps on => Sys2Proof.Machine.execTimePps on s
  | .timeCycle frames rot => Sys2Proof.Machine.execTimeCycle frames rot s
  | .gnssSend data => Sys2Proof.Machine.execGnssSend data s
  | .gnssGet => Sys2Proof.Machine.execGnssGet s
  | .keyImportCommand blob => Sys2Proof.Machine.execKeyImportCommand blob s
  | .keyDel entry => Sys2Proof.Machine.execKeyDel entry s
  | .keyGet entry => Sys2Proof.Machine.execKeyGet entry s
  | .keySwitch => Sys2Proof.Machine.execKeySwitch s
  | .keySend u dl retries => Sys2Proof.Machine.execKeySend u dl retries s
  | .keySecret data => Sys2Proof.Machine.execKeySecret data s
  | .fwWrite off data => Sys2Proof.Machine.execFwWrite off data s
  | .fwLoad slot readback => Sys2Proof.Machine.execFwLoad slot readback s
  | .fwVerify slot words => Sys2Proof.Machine.execFwVerify slot words s
  | .fwGet => Sys2Proof.Machine.execFwGet s
  | .fwKeyhash => Sys2Proof.Machine.execFwKeyhash s
  | .fwCommit => Sys2Proof.Machine.execFwCommit s
  | .stat part => Sys2Proof.Machine.execStat part s
  | .log fromSeq count => Sys2Proof.Machine.execLog fromSeq count s
  | .peek addr count => Sys2Proof.Machine.execPeek addr count s
  | .poke addr data => Sys2Proof.Machine.execPoke addr data s
  | .safe => Sys2Proof.Machine.execSafe s
  | .safeEnterCommand => Sys2Proof.Machine.execSafeEnterCommand s
  | .reset => Sys2Proof.Machine.execReset s
  | .apportionmentPassComplete => Sys2Proof.Machine.execApportionmentPassComplete s
  | .badcall c => Sys2Proof.Machine.execBadcall c s
  | .dupRing c => Sys2Proof.Machine.execDupRing c s
  | .uartCharacterTx p => Sys2Proof.Machine.execUartCharacterTx p s
  | .domainWakeComplete d => Sys2Proof.Machine.execDomainWakeComplete d s

end Sys2Proof.Machine
end

