-- ==== Sys2Proof/Machine/Idle.lean ====
section
/-! DEFINITION. What one Tick does when no command waits (log entry 10). -/

namespace Sys2Proof.Machine

open Sys2Proof

/-- One Tick inside a slot; slot and frame boundaries are commands. The Tick counts on in STANDBY (R11), and through the
extension of a step after slot 7 (R48). -/
def Seq.tickOn (q : Seq) : Seq :=
  if q.tick + 1 < 1200 * (q.slot.toNat + 1) + (if q.slot = 7 then q.ext else 0) then { q with tick := q.tick + 1 } else q

/-- One Tick of the 2 s after which an action no longer waits for its enqueued `+OK` to be sent (R304, R336, R382). -/
def State.waitTick (s : State) : State :=
  match s.interp.wait with
  | none => s
  | some w =>
    if s.okWaits then s
    else if w.left ≤ 1 then s.afterSend w.act
    else { s with interp := { s.interp with wait := some { w with left := w.left - 1 } } }

/-- One Tick on an empty queue: the Tick moves on within its slot once the PLL or the reference gives it, the watchdog
counts, and a waiting action's time runs. In SLEEP the Tick stands still (R11). -/
def State.idleTick (s : State) : State :=
  if (s.clk.lock || s.clk.ticksrc) && s.pwr.state != .sleep then (({ s with seq := s.seq.tickOn }).wdTick).waitTick else s

end Sys2Proof.Machine
end

