-- ==== Sys2Proof/Safety.lean ====
section
/-! DEFINITION. What counts as a sound state and as a legal change, in the terms the statements use. -/

namespace Sys2Proof.Machine

open Sys2Proof

/-! ### Memories and one-time items -/

/-- The ledger SRAM and every core's local RAM stand in canonical form. -/
def State.memOk (s : State) : Prop :=
  s.sram.wf = true ∧ ∀ c, Memory.wf zeros (s.core c).lram = true

/-- The lane registers and the synthesiser table stand in canonical form. -/
def State.tablesOk (s : State) : Prop :=
  Memory.wf zeros s.lane.cfg = true ∧ Memory.wf zeros s.lane.cfgAct = true ∧ Memory.wf zeros s.syn.table = true

/-- One-time programmable items: what has been programmed never changes, nor do the factory trim and the patch area, and
the firmware floor never falls (R176, R222, R273, R282, R283, R444). -/
def OtpKept (s t : State) : Prop :=
  t.otp.trim = s.otp.trim ∧ t.otp.patch = s.otp.patch ∧ t.otp.patchLevel = s.otp.patchLevel ∧
  (∀ r, s.otp.region = some r → t.otp.region = some r) ∧
    (∀ h, s.otp.keyHash = some h → t.otp.keyHash = some h) ∧
    (∀ k, s.otp.secret = some k → t.otp.secret = some k) ∧ s.otp.svn ≤ t.otp.svn

/-! ### Cores -/

/-- A core that runs, with no branch, repeat or delayed write in progress. -/
def Core.clear (k : Core) : Prop := k.run = .running ∧ k.branch = none ∧ k.rpt = none ∧ k.pending = []

/-- The next n words lie in core T's mask ROM (R222), or are words of an application core's program RAM without an error
(R369). -/
def State.fetchOk (s : State) (c : CoreId) (n : Nat) : Prop :=
  if c.isT then (s.core c).pc.toNat + n ≤ 0x2200
  else ∀ i ∈ (s.core c).fetched n, i ∉ (s.core c).pramBad ∧ i ∉ (s.core c).pramSingle

/-- A core ready for an instruction of n words. -/
def State.ready (s : State) (c : CoreId) (n : Nat) : Prop := (s.core c).clear ∧ s.fetchOk c n

/-- Only core c differs between s and t. -/
def OnlyCore (c : CoreId) (s t : State) : Prop := t = s.setCore c (t.core c)

/-- An instruction of n words that writes v to Gd and sets the sticky bits given: G0 discards the write, the next MVC
read of CST does not see the new sticky bits, and nothing else of the core or the machine differs. -/
def WroteG (s t : State) (c : CoreId) (n : Nat) (d : BitVec 4) (v : Word) (ov dz : Bool) : Prop :=
  let k := s.core c
  let q := t.core c
  OnlyCore c s t ∧ (∀ r, q.rg r = if r = d ∧ d ≠ 0 then v else k.rg r) ∧ q.pc = k.pc + BitVec.ofNat 14 n ∧
    q.cst = k.cst ||| bitWord 1 ov ||| bitWord 0 dz ∧ q.cstRead = k.cst ∧
    { q with g := k.g, pc := k.pc, cst := k.cst, pending := k.pending } = k

/-- An instruction of one word that writes v to ACu: the next instruction reads the old value unless it accumulates
into ACu. -/
def WroteAc (s t : State) (c : CoreId) (u : BitVec 2) (v : Acc) (ov : Bool) : Prop :=
  let k := s.core c
  let q := t.core c
  OnlyCore c s t ∧ q.accum u = v ∧ (∀ m, q.rac m = k.rac m) ∧ (∀ m, m ≠ u → q.accum m = k.rac m) ∧
    (∀ m, q.age.rac m = if m = u then v else k.rac m) ∧
    q.pc = k.pc + 1 ∧ q.cst = k.cst ||| bitWord 1 ov ∧
    { q with pc := k.pc, cst := k.cst, pending := k.pending } = k

/-- An exact value in a signed destination of w bits (R230): the value itself when it fits, else OV with the nearest
value or the low bits. -/
def SignedResult (w : Nat) (sat : Bool) (e : Int) (v : BitVec w) (ov : Bool) : Prop :=
  if -(2 ^ (w - 1) : Int) ≤ e ∧ e < (2 ^ (w - 1) : Int) then v.toInt = e ∧ ov = false
  else ov = true ∧ v = (if sat then (if 0 < e then BitVec.intMax w else BitVec.intMin w) else BitVec.ofInt w e)

/-- An instruction of n words that writes v to Pp, which the next instruction's addressing does not see. -/
def WroteP (s t : State) (c : CoreId) (n : Nat) (p : BitVec 3) (v : Addr) : Prop :=
  let k := s.core c
  let q := t.core c
  OnlyCore c s t ∧ (∀ m, q.rp m = k.rp m) ∧ (∀ m, q.age.rp m = if m = p then v else k.rp m) ∧
    q.pc = k.pc + BitVec.ofNat 14 n ∧ { q with pc := k.pc, pending := k.pending } = k

/-- A jump whose delay slot holds a NOP: two instructions take core c to `target`, and `keep` says what else they did. -/
def JumpsTo (s : State) (c : CoreId) (i : Instr) (target : PAddr) (keep : Core → Core → Prop) : Prop :=
  ∃ t u, exec i s = .next t ∧ exec (.fNop c) t = .next u ∧ OnlyCore c s t ∧ OnlyCore c s u ∧
    (u.core c).pc = target ∧ (u.core c).branch = none ∧ keep (s.core c) (u.core c)

/-- Nothing of the core but its pc. -/
def PcOnly (k q : Core) : Prop := { q with pc := k.pc } = k

/-- R246: a handled trap. -/
def TrapTaken (k q : Core) (cause : Nat) : Prop :=
  q.tpc = k.pc ∧ q.tcst = k.cst ∧ q.tcause = BitVec.ofNat 16 cause ∧ q.cst = (k.cst ||| 0x0800) &&& 0xEFFF ∧ q.pc = 2 ∧
    (∀ r, q.rg r = k.rg r) ∧ (∀ m, q.rp m = k.rp m) ∧ (∀ m, q.rac m = k.rac m) ∧ q.stack = k.stack ∧ q.depth = k.depth ∧
    q.ipc = k.ipc ∧ q.icst = k.icst ∧ q.imask = k.imask ∧ q.ipend = k.ipend ∧ q.lram = k.lram

/-- Where an address leads on a core (R232): a word of the ledger SRAM that may be read and written, in a bank that does
not drain and that is on for core T, a word of the core's own RAM, or, on an application core, nowhere. -/
def SramAt (s : State) (c : CoreId) (a : Addr) : Prop :=
  a.toNat < (if c.isT then sramEnd else keyBase) ∧ s.drains (bankOf a.toNat) = false ∧
    (c.isT = true → s.pwr.bankOn.getLsbD (bankOf a.toNat) = true)
def LocalAt (c : CoreId) (a : Addr) (n : Nat) : Prop :=
  a.toNat = 0xC00000 + n ∧ n < (if c.isT then 0x4000 else 0x1000)
def Forbidden (c : CoreId) (a : Addr) : Prop :=
  c.isT = false ∧ keyBase ≤ a.toNat ∧ ¬ (0xC00000 ≤ a.toNat ∧ a.toNat < 0xC01000) ∧ a.toNat < 0xFF0000

/-- A data read of address a that traps nowhere gives v (R232, R367). -/
def Reads (s : State) (c : CoreId) (a : Addr) (v : Word) : Prop :=
  (SramAt s c a ∧ eccWord a.toNat ∉ s.sram.bad ∧ v = s.rd a.toNat) ∨
    (∃ n, LocalAt c a n ∧ n ∉ (s.core c).lramBad ∧ v = (s.core c).lram.get0 n) ∨ (Forbidden c a ∧ v = 0)

/-- The P registers after an addressing mode's update (R234). -/
def Updated (k q : Core) (m : MemOp) (pair : Bool) : Prop :=
  ∀ p, q.rp p = match k.postUpdate m pair with
    | some (r, v) => if p = r then v else k.rp p
    | none => k.rp p

/-- The core and the words of an instruction that a repeat may execute again and again (R241). -/
def repeatBody : Instr → Option (CoreId × Nat)
  | .fMov c _ _ => some (c, 1)
  | .fNeg c _ _ => some (c, 1)
  | .fAbs c _ _ => some (c, 1)
  | .fAdd c _ a _ => some (c, extWords a.isSome)
  | .fSub c _ a _ => some (c, extWords a.isSome)
  | .fAnd c _ a _ => some (c, extWords a.isSome)
  | .fOr c _ a _ => some (c, extWords a.isSome)
  | .fXor c _ a _ => some (c, extWords a.isSome)
  | .fLsh c _ a _ => some (c, extWords a.isSome)
  | .fAsh c _ a _ => some (c, extWords a.isSome)
  | .fClt c _ a _ => some (c, extWords a.isSome)
  | .fCle c _ a _ => some (c, extWords a.isSome)
  | .fCeq c _ a _ => some (c, extWords a.isSome)
  | .fCne c _ a _ => some (c, extWords a.isSome)
  | .fCult c _ a _ => some (c, extWords a.isSome)
  | .fCule c _ a _ => some (c, extWords a.isSome)
  | .fDiv c _ a _ => some (c, extWords a.isSome)
  | .fDivu c _ a _ => some (c, extWords a.isSome)
  | .fAddu c _ a _ => some (c, extWords a.isSome)
  | .fSubu c _ a _ => some (c, extWords a.isSome)
  | .fMvi c _ i => some (c, extWords i.ext)
  | .fAddi c _ i => some (c, extWords i.ext)
  | .fLshi c _ i => some (c, extWords i.ext)
  | .fAshi c _ i => some (c, extWords i.ext)
  | .fLd c _ m => some (c, memWords m)
  | .fSt c _ m => some (c, memWords m)
  | .fLdd c _ m => some (c, memWords m)
  | .fStd c _ m => some (c, memWords m)
  | .fMpy c _ _ _ => some (c, 1)
  | .fMac c _ _ _ => some (c, 1)
  | .fMpyi c _ _ _ => some (c, 1)
  | .fMpyu c _ _ _ => some (c, 1)
  | .fMvl c _ _ => some (c, 1)
  | .fMvh c _ _ => some (c, 1)
  | .fMvg c _ _ => some (c, 1)
  | .fMva c _ _ => some (c, 1)
  | .fAcc c _ _ => some (c, 1)
  | .fAccu c _ _ => some (c, 1)
  | .fSha c _ _ => some (c, 1)
  | .fMvd c _ _ => some (c, 1)
  | .fAdda c _ _ => some (c, 1)
  | .fSuba c _ _ => some (c, 1)
  | .fMvp c _ _ e => some (c, 1 + e.toNat)
  | .fAddp c _ _ => some (c, 1)
  | .fMvpDk c _ _ => some (c, 1)
  | .fMvpl c _ _ => some (c, 1)
  | .fMvph c _ _ => some (c, 1)
  | .fNop c => some (c, 1)
  | .fMvcRead c _ _ => some (c, 1)
  | .fMvcWrite c n _ => if n = 1 then none else some (c, 1)
  | _ => none

/-- The memory operand of an instruction. -/
def memOperand : Instr → Option MemOp
  | .fLd _ _ m => some m
  | .fSt _ _ m => some m
  | .fLdd _ _ m => some m
  | .fStd _ _ m => some m
  | _ => none

/-- A read of REPCNT, which is a free value while a repeat runs (log entry 19). -/
def readsRepcnt : Instr → Bool
  | .fMvcRead _ _ n => n == 1
  | _ => false

/-- The core and the words of an instruction that a repeat cannot execute (R241). -/
def unrepeatable : Instr → Option (CoreId × Nat)
  | .fBz c _ _ e => some (c, branchWords e)
  | .fBnz c _ _ e => some (c, branchWords e)
  | .fB c _ e => some (c, branchWords e)
  | .fCall c _ e _ => some (c, branchWords e)
  | .fCallr c _ _ => some (c, 1)
  | .fJr c _ => some (c, 1)
  | .fRet c => some (c, 1)
  | .fReti c => some (c, 1)
  | .fRett c => some (c, 1)
  | .fRpt c _ => some (c, 1)
  | .fRpti c _ => some (c, 1)
  | .fTrap c => some (c, 1)
  | .fMvcWrite c n _ => if n = 1 then some (c, 1) else none
  | _ => none

/-- R231: q is n / d rounded as RND says, for d > 0. -/
def Rounds (rnd : Rnd) (n : Int) (d : Nat) (q : Int) : Prop :=
  if rnd = 1 then 2 * q * d ≤ 2 * n + d ∧ 2 * n + d < 2 * (q + 1) * d
  else if rnd = 2 then
    2 * (n - q * d) ≤ d ∧ -(d : Int) ≤ 2 * (n - q * d) ∧ ((2 * (n - q * d)).natAbs = d → q % 2 = 0)
  else q * d ≤ n ∧ n < (q + 1) * d

/-! ### Service calls -/

/-- The call of core c is answered (R269): BUSY falls, word 0 holds the status, the words after it the results, and a
core that runs has DOORBELL pending. -/
def Answered (s t : State) (c : CoreId) (status : Byte) (ws : List Word) : Prop :=
  let q := t.core c
  q.busy = false ∧ hiByte (q.mbox.get 0) = status ∧
    (∀ i, i < ws.length → i < 15 → q.mbox.toList.getD (i + 1) 0 = ws.getD i 0) ∧
    ((s.core c).run = .running → bit q.ipend 0 = true)

/-- TMON has worked on a slow call of core c and holds its answer (R270). -/
def Worked (s t : State) (c : CoreId) (status : Byte) (ws : List Word) : Prop :=
  t.sys.slow = s.sys.slow ++ [⟨c, status, ws⟩] ∧ ∀ d, t.core d = s.core d

/-- The banks of n words from a are on and do not drain: TMON meets no powered-down domain there (R278, R389). -/
def State.spanOn (s : State) (a n : Nat) : Prop :=
  ∀ b ∈ banksOf a n, s.pwr.bankOn.getLsbD b = true ∧ s.drains b = false

/-- Every word of the ledger SRAM reads as before. -/
def SameWords (s t : State) : Prop := ∀ b, t.rd b = s.rd b

/-- Nothing of the ledger SRAM differs outside n words from a on. -/
def SramFrame (s t : State) (a n : Nat) : Prop := ∀ b, b < a ∨ a + n ≤ b → t.rd b = s.rd b

/-! ### Mustix commands -/

/-- The interpreter serves the ports and is free to begin a command (R301, R303, R307, R362, R422). -/
def State.idleMx (s : State) : Prop :=
  s.served = true ∧ s.safe.on = false ∧ s.busy = false ∧ s.interp.gnss = none ∧ s.interp.lines = []

/-- A free interpreter in Coordinator mode, outside the radio test state (R313). -/
def State.coordMx (s : State) : Prop := s.idleMx ∧ s.isRelay = false ∧ s.seq.testState = false

/-- Nothing differs but what the ports queue for sending, the lines that wait, what Port S shows of its queue, and the
interpreter itself. -/
def OnlyLines (s t : State) : Prop :=
  t = { s with porta := { s.porta with l := t.porta.l }, portb := { s.portb with l := t.portb.l }, interp := t.interp,
               ports := { s.ports with l := t.ports.l, txavl := t.ports.txavl, sbEvt := t.ports.sbEvt,
                                       sbBusy := t.ports.sbBusy, cfg := t.ports.cfg } } ∧
    t.ports.cfg &&& 0xBFFF = s.ports.cfg &&& 0xBFFF ∧
    ∀ p, t.lines p = { s.lines p with out := (t.lines p).out, waiting := (t.lines p).waiting }

/-- Lines of AFW go on port p: they stand at the end of its queue, in the form of the port's mode, when all of them fit
and no line waits there; else they wait for room, behind the lines that already do (R296, R298, R307). -/
def Queued (s t : State) (p : MPort) (ls : List String) : Prop :=
  let l := s.lines p
  if l.used + (ls.map (s.lineChars p)).sum ≤ 16224 ∧ (∀ x ∈ s.interp.lines, x.1 ≠ p) then
    (t.lines p).out.map (·.text) = l.out.map (·.text) ++ ls.map (fun b => s.wrapEcho p (lineText l.gen b)) ∧
      t.interp.lines = s.interp.lines
  else t.interp.lines.map (fun x => (x.1, x.2.text)) = s.interp.lines.map (fun x => (x.1, x.2.text)) ++
      ls.map (fun b => (p, b)) ∧ (t.lines p).out = l.out

/-- The current command of s is answered in t by continuation lines and a final line under its tag, and left. -/
def Said (s t : State) (conts : List String) (fin : String) : Prop :=
  t.interp.cur = none ∧
    Queued s t s.curLine.port ((conts.map (":" ++ ·) ++ [fin]).map (tagged s.curLine.tag))

/-- Command i takes its effect and is answered at once. -/
def Completes (i : Instr) (s : State) (conts : List String) (fin : String) (eff : State → Prop) : Prop :=
  ∃ u t, exec i s = .next t ∧ eff u ∧ u.interp = s.interp ∧ OnlyLines u t ∧ Said u t conts fin

/-- Command i takes its effect and becomes a long operation, whose final line `fin` is, or is not yet, known; every line
that waits is answered `~BUSY` and discarded (R303, R304). -/
def Begins (i : Instr) (s : State) (k : LongKind) (fin : Option String) (eff : State → Prop) : Prop :=
  ∃ u t, exec i s = .next t ∧ eff u ∧ OnlyLines u t ∧ t.interp.cur = none ∧
    t.interp.long = some ⟨k, s.curLine, fin, false⟩ ∧ t.ports.sbBusy = true ∧ ∀ p, (t.lines p).waiting = []

/-- Nothing differs but words of the ledger SRAM at the addresses given; a bank that was off may have come on. -/
def OnlySram (s t : State) (touched : Nat → Prop) : Prop :=
  t = { s with sram := t.sram, pwr := { s.pwr with bankOn := t.pwr.bankOn } } ∧ ∀ a, ¬ touched a → t.rd a = s.rd a

/-- Nothing differs but what taking a packet out of the slots leaves: buffers, arm bits and the records of AFW; a bank that
was off may have come on. -/
def OnlyDown (s t : State) : Prop :=
  t = { s with sram := t.sram, pwr := { s.pwr with bankOn := t.pwr.bankOn }, seq := { s.seq with arm := t.seq.arm },
               afw := t.afw }

/-- Words of the segment and ledger records that hold lists (R188, R190). -/
def listWord (a : Nat) : Prop :=
  (0x200000 ≤ a ∧ a < 0x300000 ∧ a % 16 = 15) ∨ (0x300000 ≤ a ∧ a < 0x320000 ∧ 13 ≤ a % 32 ∧ a % 32 ≤ 16)

/-- Words i to j - 1 of a record that begins at b. -/
def inWords (b i j a : Nat) : Prop := b + i ≤ a ∧ a < b + j


/-- Commands of the coordinator alone (R313). -/
def coordOnly : Instr → Bool
  | .nodeConfig _ _ _ _ => true
  | .segSet _ _ => true
  | .segGet _ => true
  | .segDel _ => true
  | .shareSet _ _ => true
  | .shareShow _ => true
  | .ledgerSet _ _ => true
  | .ledgerGet _ => true
  | .ledgerEngine _ => true
  | .ledgerImport _ => true
  | .order _ _ _ _ => true
  | .cancel _ => true
  | .wake _ => true
  | .timeSet _ _ => true
  | .timeNmea _ => true
  | .timePps _ => true
  | .timeCycle _ _ => true
  | .keySwitch => true
  | .keySend _ _ _ => true
  | _ => false

/-- Commands that the radio test state bars (R313, R325). -/
def testBarred : Instr → Bool
  | .nodeConfig _ _ _ _ => true
  | .order _ _ _ _ => true
  | .wake _ => true
  | .keySend _ _ _ => true
  | .planCommitCommand => true
  | .radioTest => true
  | .power _ _ _ => true
  | _ => false

/-! ### Registers and queues -/

/-- Only queue n differs between s and t. -/
def OnlyQueue (n : BitVec 5) (s t : State) : Prop := t = s.setQueue n (t.queue n)

/-- Registers that are stored whole, with the bits they hold (R432, 20_register_map). -/
def storedRegs : List (Nat × Word) :=
  [(0x802, 0xFC00), (0x803, 0x00FF), (0x808, 0xFFFF), (0x809, 0x00FF), (0x100B, 0x8000), (0x2008, 0xE0FF),
    (0x3080, 0x001F), (0x3081, 0x8000), (0x3082, 0xFFFF), (0x4801, 0x01FF), (0x5006, 0x007F), (0x7000, 0xE3FF),
    (0x7100, 0xE3FF), (0x7200, 0xC3FF), (0x7302, 0xE07F), (0x7303, 0xFFFF), (0x7304, 0x03FF), (0x7305, 0xFFFF),
    (0x7306, 0x80FF), (0x7307, 0xFFFF), (0x7308, 0x80FF), (0x7400, 0x83FF)]

/-- Registers whose value another register selects or shows, and PWR_DOMSTAT, which shows the radio domains that an access to
a radio block wakes (R388). -/
def shownRegs : List Nat := [0x806, 0x2009, 0x4802, 0x4803, 0x5007, 0x5008, 0x7002, 0x7102]

/-- Registers with bits that a 1 clears, and those bits (R432, 20_register_map). -/
def stickyRegs : List (Nat × Word) :=
  [(0x011, 0x4000), (0x400, 0x4000), (0x801, 0x2000), (0x1005, 0x4000), (0x2007, 0xC000), (0x4800, 0x1000),
    (0x6101, 0x8000), (0x7002, 0x3800), (0x7102, 0x3800), (0x7301, 0x1000), (0x7404, 0xF000), (0xA009, 0xE000)]

/-- Reset values of the register index (R443): first address, last address, value. -/
def resetValues : List (Nat × Nat × Word) :=
  [(0x000, 0x000, 0x9640), (0x001, 0x001, 0x00B0), (0x010, 0x014, 0), (0x018, 0x018, 0), (0x020, 0x027, 0),
    (0x100, 0x10F, 0), (0x400, 0x400, 0), (0x401, 0x401, 0x0001), (0x800, 0x802, 0), (0x803, 0x803, 0x00FF),
    (0x804, 0x806, 0), (0x807, 0x807, 0x00FF), (0x808, 0x809, 0), (0x1000, 0x1005, 0), (0x1006, 0x1006, 0x0384),
    (0x1007, 0x1007, 0x02A0), (0x1008, 0x100F, 0), (0x2000, 0x2003, 0), (0x2004, 0x2005, 0x3C2C),
    (0x2006, 0x2006, 0xBBC0), (0x2007, 0x2008, 0), (0x2009, 0x2009, 0x8000), (0x3000, 0x307F, 0), (0x3080, 0x3085, 0),
    (0x4000, 0x4000, 0x4000), (0x4001, 0x4003, 0), (0x4800, 0x4804, 0), (0x5000, 0x5000, 0x5000), (0x5001, 0x5001, 0),
    (0x5002, 0x5002, 0x0100), (0x5003, 0x500D, 0), (0x6000, 0x605F, 0), (0x6060, 0x607F, 0), (0x6080, 0x609F, 0xC000),
    (0x60A0, 0x60DF, 0), (0x60E0, 0x60FF, 0x0001), (0x6100, 0x6100, 0), (0x6101, 0x6101, 0x0200), (0x7000, 0x7000, 0),
    (0x7001, 0x7001, 0x029B), (0x7002, 0x7002, 0xC000), (0x7003, 0x7003, 0), (0x7100, 0x7100, 0),
    (0x7101, 0x7101, 0x029B), (0x7102, 0x7102, 0xC000), (0x7103, 0x7103, 0), (0x7200, 0x7204, 0), (0x7300, 0x7301, 0),
    (0x7302, 0x7302, 0x007F), (0x7303, 0x7303, 0x0202), (0x7304, 0x7304, 0x0002), (0x7305, 0x7308, 0), (0x7400, 0x7404, 0),
    (0xA000, 0xA00B, 0)]

/-- Registers and addresses that ignore a write (R432, R433). -/
def readOnly (a : Nat) : Bool :=
  [0x000, 0x001, 0x013, 0x014, 0x806, 0x807, 0x1000, 0x1001, 0x1002, 0x1003, 0x1004, 0x100C, 0x100D, 0x100E, 0x100F,
    0x2006, 0x2009, 0x3083, 0x3084, 0x3085, 0x4001, 0x4002, 0x4003, 0x4802, 0x4803, 0x5002, 0x5003, 0x5004, 0x5005,
    0x5007, 0x5008, 0x5009, 0x500A, 0x500B, 0x500C, 0x500D, 0x6100, 0x7003, 0x7103, 0x7202, 0x7204, 0x7401, 0x7402,
    0x7403, 0xA008, 0xA00A, 0xA00B].contains a || (0x200 ≤ a && a < 0x276) || (0x6060 ≤ a && a < 0x6080) ||
    (0x60A0 ≤ a && a < 0x60E0) || 0xC000 ≤ a

/-! ### Transmission and schedule -/

/-- A transmit result entry of six words with an outcome code, a slot and a tag stands at the end of queue RESQ, or was
dropped and counted (R175). -/
def Reported (s t : State) (resq : BitVec 5) (code slot : Nat) (tag : Word) : Prop :=
  let q := s.queue resq
  if q.en = true ∧ q.words.length + 6 ≤ (q.sizeM1.toNat + 1) * 64 then
    ∃ w0 w2 w3 w4 w5, (t.queue resq).words = q.words ++ [w0, tag, w2, w3, w4, w5].map (fun w => ⟨w, false, false⟩) ∧
      field w0 15 13 = code ∧ field w0 12 10 = slot ∧ t.tx.resDrop = s.tx.resDrop
  else t.queue resq = q ∧ t.tx.resDrop = (if s.tx.resDrop = 0xFFFF then 0xFFFF else s.tx.resDrop + 1)

/-- Interrupt line n became pending on every core that runs (R243). -/
def Raised (s t : State) (n : Nat) : Prop := ∀ c, (s.core c).run = .running → bit (t.core c).ipend n = true

/-- R146: the decision on one gain state, peaks in 0.25 dBFS, codes between MINCODE lo and MAXCODE hi. -/
def AgcLaw (lo hi : Nat) (m : AgcIn) (g h : GainState) : Prop :=
  (m.clip = true → h.code.toNat = max lo (g.code.toNat - 3) ∧ h.low = 0) ∧
    (m.clip = false → -12 < m.peak → h.code.toNat = max lo (g.code.toNat - 1) ∧ h.low = 0) ∧
    (m.clip = false → m.peak < -60 → g.low < 3 → h.code = g.code ∧ h.low = g.low + 1) ∧
    (m.clip = false → m.peak < -60 → g.low = 3 → h.code.toNat = min hi (g.code.toNat + 1) ∧ h.low = 0) ∧
    (m.clip = false → -60 ≤ m.peak → m.peak ≤ -12 → h.code = g.code ∧ h.low = 0)

/-- The gain states of an antenna over a decision in slot n under configuration word w (R145, R146). -/
def AgcStep (w : Word) (n : BitVec 3) (m : AgcIn) (st st' : Vector GainState 9) : Prop :=
  if m.measured = true ∧ field w 15 14 ≠ 2 then
    let i : Nat := if field w 15 14 = 0 then n.toNat else 8
    (∀ g h, st.toList[i]? = some g → st'.toList[i]? = some h → AgcLaw (field w 9 6) (field w 13 10) m g h) ∧
      ∀ j, j ≠ i → st'.toList[j]? = st.toList[j]?
  else st' = st

/-- No two charges of the duty store name the same range and frame. -/
def Gate.single (g : Gate) : Prop := (g.used.map (fun x => (x.range, x.frame))).Nodup

/-! ### Power -/

/-- A bank's contents are gone: it reads fresh zeros (R368). -/
def BankLost (t : State) (b : Nat) : Prop := ∀ a, bankOf a = b → t.rd a = 0

/-- A bank's contents stand. -/
def BankKept (s t : State) (b : Nat) : Prop := ∀ a, bankOf a = b → t.rd a = s.rd a

end Sys2Proof.Machine
end

