-- ==== Sys2Proof/Certificates/Slice0/Obligations.lean ====
section
/-! DEFINITION. The statements for the provers, family by family. -/

open Sys2Proof Sys2Proof.Machine

/-! ### The machine as a whole -/

/-- A step takes the command at the front of the queue and runs it on the state with the queue's rest; with nothing
waiting, and a clock, one Tick of the watchdog and the slot passes (log entry 10). -/
def Obligations.StepRunsFront : Prop :=
  (∀ c s, step { s with pending := c :: s.pending } = exec c s) ∧
    (∀ s, s.pending = [] → step s = .next s.idleTick)

/-! ### Facet cores: arithmetic and logic -/

/-- R252: the results without overflow. -/
def Obligations.FacetLogicResults : Prop :=
  ∀ (s : State) (c : CoreId) (d b : BitVec 4) (a : Option (BitVec 4)),
    let k := s.core c
    let n := if a.isSome then 2 else 1
    let A := k.rg (a.getD d)
    let B := k.rg b
    (∀ i : Imm, (Instr.fMvi c d i).wf = true → s.ready c (if i.ext then 2 else 1) →
      ∃ t, exec (.fMvi c d i) s = .next t ∧ WroteG s t c (if i.ext then 2 else 1) d i.v false false) ∧
    (okG c d = true → okG c b = true → s.ready c 1 →
      ∃ t, exec (.fMov c d b) s = .next t ∧ WroteG s t c 1 d B false false) ∧
    (okAlu c d a b = true → s.ready c n →
      (∃ t, exec (.fAnd c d a b) s = .next t ∧ WroteG s t c n d (A &&& B) false false) ∧
      (∃ t, exec (.fOr c d a b) s = .next t ∧ WroteG s t c n d (A ||| B) false false) ∧
      (∃ t, exec (.fXor c d a b) s = .next t ∧ WroteG s t c n d (A ^^^ B) false false) ∧
      (∃ t, exec (.fClt c d a b) s = .next t ∧ WroteG s t c n d (if A.toInt < B.toInt then 1 else 0) false false) ∧
      (∃ t, exec (.fCle c d a b) s = .next t ∧ WroteG s t c n d (if A.toInt ≤ B.toInt then 1 else 0) false false) ∧
      (∃ t, exec (.fCeq c d a b) s = .next t ∧ WroteG s t c n d (if A = B then 1 else 0) false false) ∧
      (∃ t, exec (.fCne c d a b) s = .next t ∧ WroteG s t c n d (if A = B then 0 else 1) false false) ∧
      (∃ t, exec (.fCult c d a b) s = .next t ∧ WroteG s t c n d (if A.toNat < B.toNat then 1 else 0) false false) ∧
      (∃ t, exec (.fCule c d a b) s = .next t ∧ WroteG s t c n d (if A.toNat ≤ B.toNat then 1 else 0) false false))

/-- R230 and R252: signed and unsigned sums and differences, with OV, and saturation when SAT is 1. -/
def Obligations.FacetSumsSaturate : Prop :=
  ∀ (s : State) (c : CoreId) (d b : BitVec 4) (a : Option (BitVec 4)),
    let k := s.core c
    let n := if a.isSome then 2 else 1
    let A := k.rg (a.getD d)
    let B := k.rg b
    (okAlu c d a b = true → s.ready c n →
      (∃ t v ov, exec (.fAdd c d a b) s = .next t ∧ SignedResult 16 k.sat (A.toInt + B.toInt) v ov ∧
        WroteG s t c n d v ov false) ∧
      (∃ t v ov, exec (.fSub c d a b) s = .next t ∧ SignedResult 16 k.sat (A.toInt - B.toInt) v ov ∧
        WroteG s t c n d v ov false) ∧
      (∃ t, exec (.fAddu c d a b) s = .next t ∧
        WroteG s t c n d (if 0xFFFF < A.toNat + B.toNat ∧ k.sat = true then 0xFFFF else A + B)
          (decide (0xFFFF < A.toNat + B.toNat)) false) ∧
      (∃ t, exec (.fSubu c d a b) s = .next t ∧
        WroteG s t c n d (if A.toNat < B.toNat ∧ k.sat = true then 0 else A - B) (decide (A.toNat < B.toNat)) false)) ∧
    (okG c d = true → okG c b = true → s.ready c 1 →
      (∃ t v ov, exec (.fNeg c d b) s = .next t ∧ SignedResult 16 k.sat (-B.toInt) v ov ∧ WroteG s t c 1 d v ov false) ∧
      (∃ t v ov, exec (.fAbs c d b) s = .next t ∧ SignedResult 16 k.sat |B.toInt| v ov ∧ WroteG s t c 1 d v ov false)) ∧
    (∀ i : Imm, (Instr.fAddi c d i).wf = true → s.ready c (if i.ext then 2 else 1) →
      ∃ t v ov, exec (.fAddi c d i) s = .next t ∧ SignedResult 16 k.sat ((k.rg d).toInt + i.v.toInt) v ov ∧
        WroteG s t c (if i.ext then 2 else 1) d v ov false)

/-- R253: what a shift of A by the signed low byte of B gives; the exact value of an arithmetic left shift obeys R230
and a right shift rounds. -/
def ShiftLaws (s : State) (c : CoreId) (n : Nat) (d : BitVec 4) (A B : Word) (lsh ash : Instr) : Prop :=
  let k := s.core c
  let m := (B.setWidth 8).toInt
  (∃ t v, exec lsh s = .next t ∧ WroteG s t c n d v false false ∧
    v.toNat = (if 16 ≤ m.natAbs then 0 else if 0 ≤ m then A.toNat * 2 ^ m.toNat % 65536 else A.toNat / 2 ^ m.natAbs)) ∧
  (∃ t v ov, exec ash s = .next t ∧ WroteG s t c n d v ov false ∧
    (0 ≤ m → SignedResult 16 k.sat (A.toInt * 2 ^ m.toNat) v ov) ∧
    (m < 0 → -16 < m → ov = false ∧ Rounds k.rnd A.toInt (2 ^ m.natAbs) v.toInt) ∧
    (m ≤ -16 → ov = false ∧ v = if A.toInt < 0 then 0xFFFF else 0))

/-- R253 for LSH, LSHI, ASH and ASHI. -/
def Obligations.FacetShifts : Prop :=
  ∀ (s : State) (c : CoreId) (d b : BitVec 4) (a : Option (BitVec 4)),
    let k := s.core c
    let n := if a.isSome then 2 else 1
    (okAlu c d a b = true → s.ready c n →
      ShiftLaws s c n d (k.rg (a.getD d)) (k.rg b) (.fLsh c d a b) (.fAsh c d a b)) ∧
    (∀ i : Imm, okLow d = true → okShi i = true → s.ready c (if i.ext then 2 else 1) →
      ShiftLaws s c (if i.ext then 2 else 1) d (k.rg d) i.v (.fLshi c d i) (.fAshi c d i))

/-- R254: a zero divisor gives R230's result and sets DZ, 0x8000 / 0xFFFF obeys R230, every other quotient is rounded. -/
def Obligations.FacetDivision : Prop :=
  ∀ (s : State) (c : CoreId) (d b : BitVec 4) (a : Option (BitVec 4)),
    let k := s.core c
    let n := if a.isSome then 2 else 1
    let A := k.rg (a.getD d)
    let B := k.rg b
    okAlu c d a b = true → s.ready c n →
      (∃ t v ov dz, exec (.fDiv c d a b) s = .next t ∧ WroteG s t c n d v ov dz ∧
        (B = 0 → dz = true ∧ ov = false ∧ v = if 0 < A.toInt then 0x7FFF else if A.toInt < 0 then 0x8000 else 0) ∧
        (B ≠ 0 → dz = false ∧ ov = decide (A = 0x8000 ∧ B = 0xFFFF) ∧
          (ov = true → v = if k.sat then 0x7FFF else 0x8000) ∧
          (ov = false → Rounds k.rnd (A.toInt * B.toInt.sign) B.toInt.natAbs v.toInt))) ∧
      (∃ t v dz, exec (.fDivu c d a b) s = .next t ∧ WroteG s t c n d v false dz ∧
        (B = 0 → dz = true ∧ v = if A = 0 then 0 else 0x7FFF) ∧
        (B ≠ 0 → dz = false ∧ Rounds k.rnd (A.toNat : Int) B.toNat (v.toNat : Int) ∧
          (k.rnd = 2 → v.toNat = rnd185 A.toNat B.toNat)))

/-! ### Facet cores: accumulators and address registers -/

/-- R229 and R255: the products are exact, and MAC adds with R230. -/
def Obligations.FacetProducts : Prop :=
  ∀ (s : State) (c : CoreId) (u : BitVec 2) (x y : BitVec 4),
    let k := s.core c
    let X := (k.rg x).toInt
    let Y := (k.rg y).toInt
    okAc c u = true → okMul c x = true → okMul c y = true → s.ready c 1 →
      (∃ t v, exec (.fMpy c u x y) s = .next t ∧ WroteAc s t c u v false ∧ v.toInt = 2 * (X * Y)) ∧
      (∃ t v, exec (.fMpyi c u x y) s = .next t ∧ WroteAc s t c u v false ∧ v.toInt = X * Y) ∧
      (∃ t v, exec (.fMpyu c u x y) s = .next t ∧ WroteAc s t c u v false ∧
        v.toNat = (k.rg x).toNat * (k.rg y).toNat) ∧
      (∃ t v ov, exec (.fMac c u x y) s = .next t ∧ WroteAc s t c u v ov ∧
        SignedResult 40 k.sat ((k.rac u).toInt + 2 * (X * Y)) v ov)

/-- R256: moves and arithmetic of the accumulators. CLR, that is SUBA of an accumulator from itself, gives 0. -/
def Obligations.FacetAccumulators : Prop :=
  ∀ (s : State) (c : CoreId) (u m : BitVec 2) (b : BitVec 4),
    let k := s.core c
    let a := (k.rac u).toInt
    let B := k.rg b
    let z := (B.setWidth 8).toInt
    okAc c u = true → okAc c m = true → okG c b = true → s.ready c 1 →
      (∃ t v, exec (.fMva c u b) s = .next t ∧ WroteAc s t c u v false ∧ v.toInt = B.toInt * 65536) ∧
      (∃ t v ov, exec (.fAcc c u b) s = .next t ∧ WroteAc s t c u v ov ∧ SignedResult 40 k.sat (a + B.toInt) v ov) ∧
      (∃ t v ov, exec (.fAccu c u b) s = .next t ∧ WroteAc s t c u v ov ∧ SignedResult 40 k.sat (a + B.toNat) v ov) ∧
      (∃ t v ov, exec (.fSha c u b) s = .next t ∧ WroteAc s t c u v ov ∧
        (0 ≤ z → SignedResult 40 k.sat (a * 2 ^ z.toNat) v ov) ∧
        (z < 0 → -40 < z → ov = false ∧ Rounds k.rnd a (2 ^ z.natAbs) v.toInt) ∧
        (z ≤ -40 → ov = false ∧ v = if a < 0 then BitVec.allOnes 40 else 0)) ∧
      (∃ t v ov, exec (.fAdda c u m) s = .next t ∧ WroteAc s t c u v ov ∧
        SignedResult 40 k.sat (a + (k.rac m).toInt) v ov) ∧
      (∃ t v ov, exec (.fSuba c u m) s = .next t ∧ WroteAc s t c u v ov ∧
        SignedResult 40 k.sat (a - (k.rac m).toInt) v ov)

/-- R256: reads of an accumulator. A pair with k = 0 is an undefined encoding (R248) and traps. -/
def Obligations.FacetExtraction : Prop :=
  ∀ (s : State) (c : CoreId) (u : BitVec 2) (d : BitVec 4) (j : BitVec 3),
    let k := s.core c
    let a := k.rac u
    okAc c u = true → okG c d = true → okD c j = true → s.ready c 1 →
      (∃ t, exec (.fMvl c d u) s = .next t ∧ WroteG s t c 1 d (a.setWidth 16) false false) ∧
      (∃ t v, exec (.fMvg c d u) s = .next t ∧ WroteG s t c 1 d v false false ∧ v.toInt = a.toInt >>> 32) ∧
      (∃ t v ov r, exec (.fMvh c d u) s = .next t ∧ WroteG s t c 1 d v ov false ∧ Rounds k.rnd a.toInt 65536 r ∧
        SignedResult 16 k.sat r v ov) ∧
      (j ≠ 0 → ∃ t v ov, exec (.fMvd c j u) s = .next t ∧ SignedResult 32 k.sat a.toInt v ov ∧ OnlyCore c s t ∧
        (t.core c).pc = k.pc + 1 ∧ (t.core c).cst = k.cst ||| bitWord 1 ov ∧
        (∀ r, (t.core c).rg r = if r = pairLo j then v.setWidth 16 else if r = pairHi j then (v >>> 16).setWidth 16
          else k.rg r)) ∧
      (j = 0 → exec (.fMvd c j u) s = .next (s.trap c 1 0))

/-- R234 and R259: MVP and ADDP write Pn modulo 2^24, MVPL and MVPH read it; the address of each mode and the update of
Pn, by 1 or Gk for a word and twice that for a pair. -/
def Obligations.FacetAddressRegisters : Prop :=
  (∀ (k : Core) (p : BitVec 3) (g : BitVec 4) (d : BitVec 12) (e : Bool),
    k.addrOf (.disp p d e) = k.rp p + d.setWidth 24 ∧ k.addrOf (.inc p) = k.rp p ∧ k.addrOf (.dec p) = k.rp p ∧
      k.addrOf (.modify p g) = k.rp p ∧ (k.addrOf (.direct d e)).toNat = 0xC00000 + d.toNat ∧
      ∀ pair, k.postUpdate (.disp p d e) pair = none ∧ k.postUpdate (.direct d e) pair = none ∧
        k.postUpdate (.inc p) pair = some (p, k.rp p + (if pair then 2 else 1)) ∧
        k.postUpdate (.dec p) pair = some (p, k.rp p - (if pair then 2 else 1)) ∧
        k.postUpdate (.modify p g) pair =
          some (p, k.rp p + (if pair then 2 else 1) * BitVec.ofInt 24 (k.rg g).toInt)) ∧
  ∀ (s : State) (c : CoreId) (p j : BitVec 3) (d : BitVec 4),
    let k := s.core c
    okP c p = true →
      (∀ v e, okMvp c v e = true → s.ready c (1 + e.toNat) →
        ∃ t, exec (.fMvp c p v e) s = .next t ∧ WroteP s t c (1 + e.toNat) p v) ∧
      (okD c j = true → j ≠ 0 → s.ready c 1 →
        (∃ t, exec (.fAddp c p j) s = .next t ∧ WroteP s t c 1 p (k.rp p + (k.rd2 j).setWidth 24)) ∧
        (∃ t, exec (.fMvpDk c p j) s = .next t ∧ WroteP s t c 1 p ((k.rd2 j).setWidth 24))) ∧
      (s.ready c 1 → exec (.fAddp c p 0) s = .next (s.trap c 1 0) ∧ exec (.fMvpDk c p 0) s = .next (s.trap c 1 0)) ∧
      (okG c d = true → s.ready c 1 →
        (∃ t, exec (.fMvpl c d p) s = .next t ∧ WroteG s t c 1 d ((k.rp p).setWidth 16) false false) ∧
        (∃ t, exec (.fMvph c d p) s = .next t ∧ WroteG s t c 1 d (((k.rp p) >>> 16).setWidth 16) false false))

/-! ### Facet cores: control flow -/

/-- R260: targets of branches and of JR, after one delay slot; nothing but the pc changes. -/
def Obligations.FacetBranches : Prop :=
  ∀ (s : State) (c : CoreId) (r : BitVec 4) (off : BitVec 15) (ext : Bool),
    let k := s.core c
    let n := if ext then 2 else 1
    let after : PAddr := k.pc + BitVec.ofNat 14 n
    let target : PAddr := after + BitVec.ofInt 14 off.toInt
    (okG c r = true → r ≠ 0 → okOff c off ext = true → s.ready c (n + 1) →
      JumpsTo s c (.fBz c r off ext) (if k.rg r = 0 then target else after + 1) PcOnly ∧
      JumpsTo s c (.fBnz c r off ext) (if k.rg r = 0 then after + 1 else target) PcOnly ∧
      JumpsTo s c (.fB c off ext) target PcOnly) ∧
    (okG c r = true → s.ready c 2 → JumpsTo s c (.fJr c r) ((k.rg r).setWidth 14) PcOnly)

/-- R239 and R260: a call pushes the address after its delay slot and a return pops it; with STKTRAP a call on a full
stack and a return on an empty one trap instead. -/
def Obligations.FacetCalls : Prop :=
  ∀ (s : State) (c : CoreId) (r : BitVec 4) (off : BitVec 15) (ext : Bool) (w : BitVec 2),
    let k := s.core c
    let n := if ext then 2 else 1
    let after : PAddr := k.pc + BitVec.ofNat 14 n
    let size := if c.isT then 4 else 8
    let pushed (ret : PAddr) (k q : Core) : Prop :=
      q.top c = ret.setWidth 16 ∧ q.depth = min size (k.depth + 1) ∧ (∀ i, q.rg i = k.rg i) ∧ q.cst = k.cst
    (okOff c off ext = true → okSlot c w = true → s.ready c (n + 1) →
      (k.stktrap = false ∨ k.depth < size →
        JumpsTo s c (.fCall c off ext w) (after + BitVec.ofInt 14 off.toInt) (pushed (after + w.setWidth 14))) ∧
      (k.stktrap = true ∧ size ≤ k.depth → exec (.fCall c off ext w) s = .next (s.trap c 3 0))) ∧
    (okG c r = true → okSlot c w = true → s.ready c 2 →
      (k.stktrap = false ∨ k.depth < size →
        JumpsTo s c (.fCallr c r w) ((k.rg r).setWidth 14) (pushed (k.pc + 1 + w.setWidth 14))) ∧
      (k.stktrap = true ∧ size ≤ k.depth → exec (.fCallr c r w) s = .next (s.trap c 3 0))) ∧
    (s.ready c 2 →
      (k.stktrap = false ∨ 0 < k.depth →
        JumpsTo s c (.fRet c) ((k.top c).setWidth 14) (fun k q => q.depth = k.depth - 1 ∧ q.stack = k.stack)) ∧
      (k.stktrap = true ∧ k.depth = 0 → exec (.fRet c) s = .next (s.trap c 4 0)))

/-- R241, R245 to R247: TRAP and the trap causes on an application core, where the cause arises, handled and not. -/
def Obligations.FacetTraps : Prop :=
  ∀ (s : State) (c : CoreId), c.isT = false → s.ready c 1 →
    let k := s.core c
    let arises (cause : BitVec 4) : Prop := cause = 1 ∨ cause = 5 ∨ (cause = 3 ∧ k.stktrap = true ∧ 8 ≤ k.depth) ∨
      (cause = 4 ∧ k.stktrap = true ∧ k.depth = 0)
    (k.thand = true → k.tact = false →
      (∃ t, exec (.fTrap c) s = .next t ∧ OnlyCore c s t ∧ TrapTaken k (t.core c) 1 ∧ (t.core c).taddr = k.taddr) ∧
      (∀ cause addr, arises cause → ∃ t, exec (.trapEntry c cause addr) s = .next t ∧ OnlyCore c s t ∧
        TrapTaken k (t.core c) cause.toNat ∧ (t.core c).taddr = if cause = 5 then addr else k.taddr)) ∧
    (k.thand = false ∨ k.tact = true → s.safe.on = false →
      (∃ t, exec (.fTrap c) s = .next t ∧ (t.core c).run = .stopped ∧ t.safe.on = true ∧ t.safe.cause = 3) ∧
      (∀ cause addr, arises cause → ∃ t, exec (.trapEntry c cause addr) s = .next t ∧
        (t.core c).run = .stopped ∧ t.safe.on = true ∧ t.safe.cause = 3)) ∧
    (∀ addr, s.safe.on = false → ∃ t, exec (.trapEntry c 0 addr) s = .next t ∧ (t.core c).run = .stopped ∧
      t.safe.cause = 3) ∧
    (∀ cause addr, cause ≠ 0 → ¬ arises cause → exec (.trapEntry c cause addr) s = .next s)

/-- R226, R227: CST as a return restores it from the saved word w. -/
def RestoredCst (old w new : Word) : Prop :=
  new = (w &&& 0x9803) ||| ((if field w 14 13 = 3 then old else w) &&& 0x6000)

/-- R242 to R246: an interrupt takes the lowest-numbered enabled line, RETI and RETT go back after their delay slot.
The row for an entry and the masks of a restored CST are the model's (log entries 11 and 21). -/
def Obligations.FacetInterrupts : Prop :=
  ∀ (s : State) (c : CoreId),
    let k := s.core c
    (∀ line, k.clear → bit k.cst 12 = true → line < 16 → bit (s.ipend c) line = true → bit k.imask line = true →
      (∀ m, m < line → bit (s.ipend c) m = false ∨ bit k.imask m = false) →
      ∃ t, exec (.interruptEntry c) s = .next t ∧ OnlyCore c s t ∧ (t.core c).ipc = k.pc ∧ (t.core c).icst = k.cst ∧
        (t.core c).cst = k.cst &&& 0xEFFF ∧ (t.core c).pc = BitVec.ofNat 14 (0x10 + 2 * line) ∧
        bit (t.core c).ipend line = false ∧ ∀ r, (t.core c).rg r = k.rg r) ∧
    (k.clear → bit k.cst 12 = false → exec (.interruptEntry c) s = .next s) ∧
    (s.ready c 2 → k.repcnt = 0 →
      JumpsTo s c (.fReti c) k.ipc (fun k q => RestoredCst k.cst k.icst q.cst ∧ ∀ r, q.rg r = k.rg r) ∧
      JumpsTo s c (.fRett c) k.tpc (fun k q => RestoredCst k.cst k.tcst q.cst ∧ ∀ r, q.rg r = k.rg r))

/-- R240 and R241: RPT and RPTI latch the count; the next instruction, any repeatable one, runs that many times, each as it
would alone, or is skipped for 0; every unrepeatable one traps, whatever the count. REPCNT as read while a repeat runs is a
free value (log entry 19), so that the value of that one read is left open. -/
def Obligations.FacetRepeats : Prop :=
  ∀ (s : State) (c : CoreId),
    let k := s.core c
    (∀ n : RptCount, (Instr.fRpt c n).wf = true → s.ready c 1 →
      let count : Word := match n with | .imm i => i.setWidth 16 + 1 | .reg r => k.rg r
      (∃ t, exec (.fRpt c n) s = .next t ∧ OnlyCore c s t ∧ (t.core c).rpt = some ⟨count, false, false⟩ ∧
        (t.core c).pc = k.pc + 1) ∧
      (∃ t, exec (.fRpti c n) s = .next t ∧ OnlyCore c s t ∧ (t.core c).rpt = some ⟨count, true, false⟩ ∧
        (t.core c).pc = k.pc + 1)) ∧
    (∀ q : Repeat, k.run = .running → k.branch = none → k.pending = [] → k.rpt = some q → s.fetchOk c 1 →
      (∃ t, exec (.fNop c) s = .next t ∧ OnlyCore c s t ∧
        (q.left.toNat ≤ 1 → (t.core c).rpt = none ∧ (t.core c).pc = k.pc + 1) ∧
        (1 < q.left.toNat → (t.core c).rpt = some ⟨q.left - 1, q.intr, true⟩ ∧ (t.core c).pc = k.pc))) ∧
    (∀ q : Repeat, k.run = .running → k.branch = none → k.rpt = some q →
      (∀ i n, unrepeatable i = some (c, n) → i.wf = true → s.fetchOk c n → exec i s = .next (s.trap c 2 0)) ∧
      (∀ i n, repeatBody i = some (c, n) → i.wf = true → s.fetchOk c n → q.left = 0 →
        exec i s = .next (s.setCore c { k with rpt := none, pc := k.pc + BitVec.ofNat 14 n })) ∧
      (∀ i n t, repeatBody i = some (c, n) → i.wf = true → s.fetchOk c n → q.left ≠ 0 → readsRepcnt i = false →
        (∀ m, memOperand i = some m → (k.addrOf m).toNat + 1 < 0xFF0000) →
        exec i (s.setCore c { k with rpt := none }) = .next t → (t.core c).run = .running →
        bit (t.core c).cst 11 = bit k.cst 11 → t.aon.boot = s.aon.boot →
        exec i s = .next (if q.left = 1 then t
          else t.setCore c { (t.core c) with rpt := some ⟨q.left - 1, q.intr, true⟩, pc := k.pc })) ∧
      (∀ d, (Instr.fMvcRead c d 1).wf = true → s.fetchOk c 1 → q.left ≠ 0 →
        ∃ t, exec (.fMvcRead c d 1) s = .next t ∧ (∀ r, r ≠ d → (t.core c).rg r = (s.core c).age.rg r) ∧
          (q.left = 1 → (t.core c).rpt = none ∧ (t.core c).pc = k.pc + 1) ∧
          (q.left ≠ 1 → (t.core c).rpt = some ⟨q.left - 1, q.intr, true⟩ ∧ (t.core c).pc = k.pc)))

/-- R226, R239 and R262: what MVC reads and writes. -/
def Obligations.FacetControlRegisters : Prop :=
  ∀ (s : State) (c : CoreId) (d : BitVec 4), okMul c d = true → s.ready c 1 →
    let k := s.core c
    (∀ (n : BitVec 4) (v : Word), n ≠ 12 →
      (n, v) ∈ [((0 : BitVec 4), k.cst), (1, k.repcnt), (2, k.coreCfg c), (3, k.imask), (4, s.ipend c), (5, k.ipc.setWidth 16),
        (6, k.icst), (7, k.tpc.setWidth 16), (8, k.tcst), (9, k.tcause), (10, k.taddr.setWidth 16),
        (11, (k.taddr >>> 16).setWidth 16), (13, BitVec.ofNat 16 k.depth), (14, 0), (15, 0)] →
      ∃ t, exec (.fMvcRead c d n) s = .next t ∧ WroteG s t c 1 d v false false) ∧
    (k.stktrap = false ∨ 0 < k.depth → ∃ t, exec (.fMvcRead c d 12) s = .next t ∧ OnlyCore c s t ∧
      (t.core c).rg d = (if d = 0 then 0 else k.top c) ∧ (t.core c).depth = k.depth - 1) ∧
    (k.stktrap = true → k.depth = 0 → exec (.fMvcRead c d 12) s = .next (s.trap c 4 0)) ∧
    (∀ n : BitVec 4, n ≠ 12 ∨ k.stktrap = false → ∃ t, exec (.fMvcWrite c n d) s = .next t ∧ OnlyCore c s t ∧
      (let v := k.rg d
       let q := t.core c
       q.pc = k.pc + 1 ∧ (∀ r, q.rg r = k.rg r) ∧
       (n = 0 → q.cst = (v &&& 0x9003) ||| ((if field v 14 13 = 3 then k.cst else v) &&& 0x6000) ||| bitWord 11 k.tact) ∧
       (n ≠ 0 → q.cst = k.cst) ∧ q.repcnt = (if n = 1 then v else k.repcnt) ∧
       q.thand = (if n = 2 then bit v 3 else k.thand) ∧ q.stktrap = (if n = 2 then bit v 2 else k.stktrap) ∧
       q.bada = (if n = 2 then k.bada && !bit v 8 else k.bada) ∧ q.imask = (if n = 3 then v else k.imask) ∧
       q.ipend = (if n = 4 then k.ipend &&& ~~~v else k.ipend) ∧ q.ipc = (if n = 5 then v.setWidth 14 else k.ipc) ∧
       q.icst = (if n = 6 then v else k.icst) ∧ q.tpc = (if n = 7 then v.setWidth 14 else k.tpc) ∧
       q.tcst = (if n = 8 then v else k.tcst) ∧ q.tcause = k.tcause ∧ q.taddr = k.taddr ∧
       (n = 12 → q.top c = v)))

/-! ### Facet cores: data memory -/

/-- R235 and R258: a load reaches its register for the third instruction after it, and memory keeps every word; an
uncorrectable word traps (R245, R367); a read of a bank that drains waits for its end and reads the fresh bank (R368,
R389). Core T's bus error and its ECC trap: log entry 23. -/
def Obligations.FacetLoads : Prop :=
  ∀ (s : State) (c : CoreId) (m : MemOp),
    let k := s.core c
    let a := k.addrOf m
    s.ready c (memWords m + 2) →
      (∀ d v, (Instr.fLd c d m).wf = true →
        Reads s c a v ∨ (0xFF0000 ≤ a.toNat ∧ v = (s.pageRead c (a.toNat - 0xFF0000)).1) →
        ∃ t t1 t2, exec (.fLd c d m) s = .next t ∧ exec (.fNop c) t = .next t1 ∧ exec (.fNop c) t1 = .next t2 ∧
          (∀ r, (t.core c).rg r = k.rg r ∧ (t1.core c).rg r = k.rg r) ∧
          (∀ r, (t2.core c).rg r = if r = d ∧ d ≠ 0 then v else k.rg r) ∧ Updated k (t.core c) m false ∧
          (t.core c).pc = k.pc + BitVec.ofNat 14 (memWords m) ∧ (t.core c).cst = k.cst ∧ (∀ b, t2.rd b = s.rd b) ∧
          (t.core c).lram = k.lram ∧ (Forbidden c a → (t.core c).bada = true)) ∧
      (∀ j lo hi, (Instr.fLdd c j m).wf = true → j ≠ 0 → Reads s c a lo → Reads s c (a + 1) hi →
        ∃ t t1 t2, exec (.fLdd c j m) s = .next t ∧ exec (.fNop c) t = .next t1 ∧ exec (.fNop c) t1 = .next t2 ∧
          (∀ r, (t.core c).rg r = k.rg r ∧ (t1.core c).rg r = k.rg r) ∧
          (∀ r, (t2.core c).rg r = if r = pairLo j then lo else if r = pairHi j then hi else k.rg r) ∧
          Updated k (t.core c) m true ∧ (∀ b, t2.rd b = s.rd b)) ∧
      (∀ d, (Instr.fLd c d m).wf = true → SramAt s c a → eccWord a.toNat ∈ s.sram.bad →
        c.isT = true ∨ k.thand = true → k.tact = false →
        ∃ t, exec (.fLd c d m) s = .next t ∧ TrapTaken k (t.core c) 5 ∧ (t.core c).taddr = a ∧ t.ecc.ue = true) ∧
      (∀ d, (Instr.fLd c d m).wf = true → c.isT = true → sramEnd ≤ a.toNat → a.toNat < 0xFF0000 →
        ¬ (0xC00000 ≤ a.toNat ∧ a.toNat < 0xC04000) →
        exec (.fLd c d m) s = .next (s.sampledReset 3 false false)) ∧
      (∀ d, (Instr.fLd c d m).wf = true → c.isT = false → a.toNat < keyBase → s.drains (bankOf a.toNat) = true →
        ∃ t t1 t2, exec (.fLd c d m) s = .next t ∧ exec (.fNop c) t = .next t1 ∧ exec (.fNop c) t1 = .next t2 ∧
          (∀ r, (t2.core c).rg r = if r = d then 0 else k.rg r) ∧ BankLost t (bankOf a.toNat) ∧
          t.drains (bankOf a.toNat) = false ∧ t.pwr.bankOn.getLsbD (bankOf a.toNat) = true ∧
          ∀ b, bankOf b ≠ bankOf a.toNat → t.rd b = s.rd b)

/-- R232 and R258: a store writes its words and no other; a forbidden one writes nothing and sets BADA. -/
def Obligations.FacetStores : Prop :=
  ∀ (s : State) (c : CoreId) (m : MemOp), s.memOk →
    let k := s.core c
    let a := k.addrOf m
    s.ready c (memWords m) →
      (∀ r, (Instr.fSt c r m).wf = true →
        (SramAt s c a → ∃ t, exec (.fSt c r m) s = .next t ∧ t.rd a.toNat = k.rg r ∧
          (∀ b, b ≠ a.toNat → t.rd b = s.rd b) ∧ (t.core c).lram = k.lram ∧ Updated k (t.core c) m false) ∧
        (∀ n, LocalAt c a n → ∃ t, exec (.fSt c r m) s = .next t ∧ (t.core c).lram.get0 n = k.rg r ∧
          (∀ b, b ≠ n → (t.core c).lram.get0 b = k.lram.get0 b) ∧ (∀ b, t.rd b = s.rd b) ∧
          Updated k (t.core c) m false) ∧
        (Forbidden c a → ∃ t, exec (.fSt c r m) s = .next t ∧ (t.core c).bada = true ∧ (∀ b, t.rd b = s.rd b) ∧
          (t.core c).lram = k.lram) ∧
        (0xFF0000 ≤ a.toNat → ∃ t, exec (.fSt c r m) s = .next t ∧
          OnlyCore c (s.pageWrite c (a.toNat - 0xFF0000) (k.rg r)) t)) ∧
      (∀ j, (Instr.fStd c j m).wf = true → j ≠ 0 → SramAt s c a → SramAt s c (a + 1) →
        ∃ t, exec (.fStd c j m) s = .next t ∧ t.rd a.toNat = k.rg (pairLo j) ∧ t.rd (a + 1).toNat = k.rg (pairHi j) ∧
          (∀ b, b ≠ a.toNat → b ≠ (a + 1).toNat → t.rd b = s.rd b) ∧ Updated k (t.core c) m true)

/-! ### Service calls -/

/-- R181: does a test entry fit the region record as a packet of a class? A range contains its channel, whose first bin is
aligned, its power is at most that range's maximum, and the packet is not longer than the range's TXMAX. -/
def FitsRegion (s : State) (e : TxEntry) (cls : Nat) : Prop :=
  ∃ ws j, s.region = some ws ∧ rangeOf ws (s.cenNew e.win) e.bin (binsOf cls) = some j ∧ e.bin % binsOf cls = 0 ∧
    sword e.pwr ≤ (regionRange ws j).pmax ∧ packetTicks cls e.len e.fec * 10 ≤ (regionRange ws j).txmax * 96

/-- R202, R269 to R271, R273: the fast calls and what they leave. A key that goes takes the packets that need it out of the
slots. RADIO_CHECK names no class: an entry that fits as a packet of every class is answered OK, one that fits as none is
refused with a reason; where the classes disagree it is answered one way or the other (log entry 67). The block that
MODE_GET answers where no mode is stored, coordBlock, is the model's choice (log entry 9). -/
def Obligations.FastCalls : Prop :=
  ∀ (s : State) (c : CoreId),
    (s.calling c 0x03 = true → ∃ t, exec (.wmarkSet c) s = .next t ∧ Answered s t c 0x00 [] ∧
      t.sys.wmark = BitVec.ofNat 32 (pair32 (s.arg c 1) (s.arg c 2))) ∧
    (s.calling c 0x15 = true → ∃ t, exec (.bkeySwitch c) s = .next t ∧ Answered s t c 0x00 [] ∧
      t.aon.bslot = (!s.aon.bslot) ∧ t.seq.tx = s.seq.tx ∧ t.gate = s.gate ∧
      (keyPresent (s.keyBytes (bslotEntry (!s.aon.bslot))) = true → t.sram = s.sram ∧ t.afw = s.afw ∧ t.seq = s.seq)) ∧
    (s.calling c 0x21 = true → s.memOk → s.spanOn (keyAddr (s.arg c 1).toNat) 8 →
      ∃ t, exec (.keyDelete c) s = .next t ∧ Answered s t c 0x00 [] ∧
        (s.afw.built = [] ∨ (keyPresent s.bkey = true ∧ (s.arg c 1).toNat ≠ bslotEntry s.aon.bslot) →
          keyPresent (t.keyBytes (s.arg c 1).toNat) = false ∧ t.afw = s.afw ∧ t.seq = s.seq ∧
            ∀ e, e ≠ (s.arg c 1).toNat → t.keyBytes e = s.keyBytes e)) ∧
    (s.calling c 0x22 = true → s.spanOn (keyAddr (s.arg c 1).toNat) 8 → ∃ t, exec (.keyQuery c) s = .next t ∧
      Answered s t c 0x00 ((if keyPresent (s.keyBytes (s.arg c 1).toNat) then 1 else 0) ::
        wordsOfBytes ((aesEnc (s.keyBytes (s.arg c 1).toNat) (List.replicate 16 0)).take 3)) ∧ SameWords s t) ∧
    (s.calling c 0x30 = true → ∃ t, exec (.modeSet c) s = .next t ∧
      t.aon.mode = some ((List.range 15).map (fun i => s.arg c (1 + i))) ∧ t.aon.resetCause = 5 ∧
      t.aon.boot = s.aon.boot + 1 ∧ t.modeFlash = t.aon.mode) ∧
    (s.calling c 0x31 = true → ∃ t, exec (.modeGet c) s = .next t ∧
      Answered s t c 0x00 (s.aon.mode.getD coordBlock) ∧ t.aon = s.aon) ∧
    (s.calling c 0x32 = true → s.safe.on = false → ∃ t, exec (.safeEnter c) s = .next t ∧ t.safe.on = true ∧
      t.safe.cause = (s.arg c 1).setWidth 4 ∧ t.aon.safeCause = t.safe.cause) ∧
    (s.calling c 0x33 = true → ∃ t, exec (.resetReq c) s = .next t ∧ t.aon.resetCause = 2 ∧
      t.aon.boot = s.aon.boot + 1 ∧ t.otp = s.otp) ∧
    (s.calling c 0x40 = true →
      let e := TxEntry.ofWords (s.arg c 1) (s.arg c 2) (s.arg c 3) (s.arg c 4) (s.arg c 5) (s.arg c 6)
      ∃ t st ws, exec (.radioCheck c) s = .next t ∧ Answered s t c st ws ∧ t.sram = s.sram ∧ t.seq = s.seq ∧
        t.gate = s.gate ∧ (st = 0x00 ∧ ws = [] ∨ st = 0x03 ∧ ∃ r, ws = [r]) ∧
        ((∀ cls, cls < 3 → FitsRegion s e cls) → st = 0x00) ∧ ((∀ cls, cls < 3 → ¬ FitsRegion s e cls) → st = 0x03))

/-- R94, R97, R121, R271: the calls that use a key on a packet in a buffer of n payload bytes at a. Sealing and opening
are inverse, and no word outside the packet changes. The banks that TMON reads are on (R278). -/
def Obligations.KeyedCalls : Prop :=
  ∀ (s : State) (c : CoreId) (e : Nat), s.memOk →
    let a := s.bufArg c
    let n := s.bufLen a
    let key := s.keyBytes e
    let nonce := s.nonceArg c
    let hdr := (s.packetBytes a (14 + n)).take 8
    let body := ((s.packetBytes a (14 + n)).drop 10).take n
    bufOk a (sealWords n) = true → keyPresent key = true → s.spanOn a (sealWords n) → s.spanOn (keyAddr e) 8 →
      (s.calling c 0x11 = true → s.nonceSpent nonce = false → s.keyArg c = some e →
        ∃ t, exec (.ccmSeal c) s = .next t ∧ Answered s t c 0x00 [] ∧ SramFrame s t (a + 6) (sealWords n - 6) ∧
          (t.packetBytes a (14 + n)).drop 10 =
            (ccmSealBytes key nonce hdr body).1 ++ (ccmSealBytes key nonce hdr body).2) ∧
      (s.calling c 0x10 = true → s.keyArg c = some e →
        ∃ t, exec (.ccmOpen c) s = .next t ∧
          (match ccmOpenBytes key nonce hdr body ((s.packetBytes a (14 + n)).drop (10 + n)) with
            | none => Answered s t c 0x06 [] ∧ SameWords s t
            | some p => Answered s t c 0x00 [] ∧ ((t.packetBytes a (14 + n)).drop 10).take n = p ∧
                SramFrame s t (a + 6) (sealWords n - 6))) ∧
      (∀ p, ccmOpenBytes key nonce hdr (ccmSealBytes key nonce hdr p).1 (ccmSealBytes key nonce hdr p).2 = some p) ∧
      (s.calling c 0x12 = true → s.nonceSpent nonce = false → s.unitArg c = some e → 6 * ((s.arg c 3).toNat + 1) ≤ n →
        ∃ t, exec (.entrySeal c) s = .next t ∧ Answered s t c 0x00 [] ∧ SramFrame s t (a + 6) (sealWords n - 6) ∧
          (t.packetBytes a (10 + n)).drop 10 = (sealEntry key nonce (s.arg c 3).toNat body).take n) ∧
      (s.calling c 0x13 = true → bufOk a 4 = true → s.spanOn a 4 → s.unitArg c = some e →
        ∃ t, exec (.ackCheck c) s = .next t ∧ SameWords s t ∧
          Answered s t c (if ccmTag key nonce ((s.packetBytes a 6).take 2) [] = (s.packetBytes a 6).drop 2 then 0x00
            else 0x06) []) ∧
      (s.calling c 0x14 = true → s.nonceSpent nonce = false → s.unitArg c = some e → n = 24 →
        (Header.ofBytes (s.packetBytes a 18)).type = 4 → (s.packetBytes a 18).getD 13 0 = 0xF1 →
        (s.packetBytes a 18).getD 14 0 = 16 → s.spanOn (keyAddr (bslotEntry (!s.aon.bslot))) 8 →
        (keyPresent (s.keyBytes (bslotEntry (!s.aon.bslot))) = true →
          ∃ t, exec (.bkeyBody c) s = .next t ∧ Answered s t c 0x00 [] ∧ SramFrame s t (a + 6) (sealWords n - 6)) ∧
        (keyPresent (s.keyBytes (bslotEntry (!s.aon.bslot))) = false →
          ∃ t, exec (.bkeyBody c) s = .next t ∧ Answered s t c 0x05 [] ∧ SameWords s t))

/-- R271 to R274, R176, R282, R283: the slow calls, each with the status that SLOW_CALL_REPLY will bring. The centres
that WINDOW_SET tests are those as set (log entry 62). The banks that TMON reads are on (R278). -/
def Obligations.SlowCalls : Prop :=
  ∀ (s : State) (c : CoreId),
    (s.calling c 0x01 = true → bufOk (s.bufArg c) 1280 = true → s.spanOn (s.bufArg c) 1280 →
      s.seq.pend = none →
      ∃ t p, exec (.planCommit c) s = .next t ∧ t.seq.pend = some p ∧ p.plan = s.readPlan (s.bufArg c) ∧
        p.caller = some c ∧ p.validated = false ∧ t.seq.cur = s.seq.cur) ∧
    (s.calling c 0x02 = true →
      let n := pair32 (s.arg c 2) (s.arg c 3)
      let w := s.arg c 1
      (1 < w.toNat ∨ (n ≠ 0 ∧ n < 0x04D260) ∨ 0x923D80 < n →
        ∃ t, exec (.windowSet c) s = .next t ∧ Worked s t c 0x02 [] ∧ t.rxw = s.rxw) ∧
      (w.toNat ≤ 1 → (n = 0 ∨ (0x04D260 ≤ n ∧ n ≤ 0x923D80)) → s.windowFault (w == 1) n = none →
        ∃ t, exec (.windowSet c) s = .next t ∧ Worked s t c 0x00 [] ∧
          t.rxw.cen0 = (if w = 0 then BitVec.ofNat 24 n else s.rxw.cen0) ∧
          t.rxw.cen1 = (if w = 0 then s.rxw.cen1 else BitVec.ofNat 24 n))) ∧
    (s.calling c 0x20 = true → bufOk (s.bufArg c) 16 = true → s.spanOn (s.bufArg c) 16 → s.spanOn keyBase 8 →
      s.otp.secret = none → ∃ t, exec (.keyImport c) s = .next t ∧ Worked s t c 0x09 [] ∧ SameWords s t) ∧
    (∀ sec, s.calling c 0x20 = true → bufOk (s.bufArg c) 16 = true → s.spanOn (s.bufArg c) 16 → s.spanOn keyBase 8 →
      s.memOk → s.otp.secret = some sec →
      ∃ t, exec (.keyImport c) s = .next t ∧
        match kwUnwrap (wrappingKey sec) (bytesOfWords (s.rdN (s.bufArg c) 16)) with
        | none => Worked s t c 0x07 [] ∧ SameWords s t
        | some p => p.length = 24 → beNat (p.take 2) ≠ 0 → beNat (p.take 2) ≠ 0xFFFF →
            if p.getD 2 0 = 1 ∧ (p.drop 3).take 5 = List.replicate 5 0 ∧ keyPresent (p.drop 8) = true then
              Worked s t c 0x00 [] ∧ t.keyBytes (beNat (p.take 2)) = p.drop 8 ∧
                SramFrame s t (keyAddr (beNat (p.take 2))) 8
            else Worked s t c 0x02 [] ∧ SameWords s t) ∧
    (s.calling c 0x34 = true →
      (s.img.valid = true ∧ s.otp.svn ≤ s.img.svn → ∃ t, exec (.svnCommit c) s = .next t ∧ Worked s t c 0x00 [] ∧
        t.otp.svn = s.img.svn) ∧
      (¬ (s.img.valid = true ∧ s.otp.svn ≤ s.img.svn) → ∃ t, exec (.svnCommit c) s = .next t ∧ Worked s t c 0x09 [] ∧
        t.otp = s.otp)) ∧
    (s.calling c 0x35 = true → bufOk (s.bufArg c) 83 = true → s.spanOn (s.bufArg c) 83 →
      let ws := s.rdN (s.bufArg c) 83
      (s.otp.region ≠ none → ∃ t, exec (.regionWrite c) s = .next t ∧ Worked s t c 0x08 [] ∧ t.otp = s.otp) ∧
      (s.otp.region = none → regionValid ws = true → ∃ t, exec (.regionWrite c) s = .next t ∧ Worked s t c 0x00 [] ∧
        t.otp.region = some ws ∧ t.tx.regLock = true) ∧
      (s.otp.region = none → regionValid ws = false →
        ∃ t r, exec (.regionWrite c) s = .next t ∧ Worked s t c 0x03 [r] ∧ t.otp = s.otp)) ∧
    (s.calling c 0x36 = true →
      (s.otp.secret = none → ∃ t, exec (.otpSecret c) s = .next t ∧ Worked s t c 0x00 [] ∧
        t.otp.secret = some (bytesOfWords ((List.range 8).map (fun i => s.arg c (1 + i))))) ∧
      (s.otp.secret ≠ none → ∃ t, exec (.otpSecret c) s = .next t ∧ Worked s t c 0x08 [] ∧ t.otp = s.otp)) ∧
    (s.calling c 0x37 = true →
      (s.otp.keyHash = none → ∃ t, exec (.otpKeyhash c) s = .next t ∧ Worked s t c 0x00 [] ∧
        t.otp.keyHash = some s.img.keyHash) ∧
      (s.otp.keyHash ≠ none → ∃ t, exec (.otpKeyhash c) s = .next t ∧ Worked s t c 0x08 [] ∧ t.otp = s.otp))

/-- R269, R270, R278: the answer of a slow call, the answer to an unknown code, a second RING, the turn of the fast calls
that wait, and a call that meets a powered-down bank: it is set aside until the bank has woken, and others have their turn
meanwhile (log entry 23). -/
def Obligations.CallProtocol : Prop :=
  ∀ (s : State) (c : CoreId),
    (∀ r, s.sys.slow.find? (fun r => r.caller == c) = some r → (s.core c).busy = true →
      ∃ t, exec (.slowCallReply c) s = .next t ∧ Answered s t c r.status r.words ∧
        ∀ x, x ∈ t.sys.slow ↔ x ∈ s.sys.slow ∧ x.caller ≠ c) ∧
    (s.calling c (hiByte ((s.core c).mbox.get 0)) = true → hiByte ((s.core c).mbox.get 0) ∉ knownCodes →
      ∃ t, exec (.badcall c) s = .next t ∧ Answered s t c 0x01 []) ∧
    (∀ d x y, s.rung c = some x → x ∉ slowCodes → s.rung d = some y → y ∉ slowCodes →
      (s.sys.lastServed.num < c.num ∧ (d.num ≤ s.sys.lastServed.num ∨ c.num < d.num)) ∨
        (d.num ≤ s.sys.lastServed.num ∧ c.num ≤ s.sys.lastServed.num ∧ c.num < d.num) → s.calling d y = false) ∧
    (∀ x, s.rung c = some x → (x ∈ slowCodes → s.calling c x = true) ∧
      (x ∉ slowCodes → ∃ d y, y ∉ slowCodes ∧ s.calling d y = true)) ∧
    ((s.core c).busy = true → ∃ t, exec (.dupRing c) s = .next t ∧ OnlyCore c s t ∧ (t.core c).dup = true ∧
      (t.core c).busy = true ∧ (t.core c).mbox = (s.core c).mbox) ∧
    (s.calling c 0x22 = true → ¬ s.spanOn (keyAddr (s.arg c 1).toNat) 8 →
      ∃ b, b ∈ banksOf (keyAddr (s.arg c 1).toNat) 8 ∧ (s.pwr.bankOn.getLsbD b = false ∨ s.drains b = true) ∧
        exec (.keyQuery c) s = .next { s with sys := { s.sys with waiting := s.sys.waiting ++ [(c, b)] } }) ∧
    (∀ b x, (c, b) ∈ s.sys.waiting → s.calling c x = false)

/-! ### Queues and registers -/

/-- R370 to R373: what a push, a pop and the writes of QUE_CFGn and QUE_BASEn do; a disabled queue is full to a push and
empty to a pop. -/
def Obligations.QueueDiscipline : Prop :=
  ∀ (s : State) (c : CoreId) (n : BitVec 5) (v : Word),
    let q := s.queue n
    let held := if q.en then q.words else []
    let cap := (q.sizeM1.toNat + 1) * 64
    (∃ t, exec (.queuePush c n v) s = .next t ∧ OnlyQueue n s t ∧
      t.queue n = if q.en = true ∧ q.words.length < cap then { q with words := q.words ++ [⟨v, false, false⟩] }
        else { q with ovr := true }) ∧
    (∃ t, exec (.queuePop c n) s = .next t ∧ s.regRead c (0x6040 + n.toNat) = ((t.queue n).last, t) ∧
      (∀ m, m ≠ n → t.queue m = s.queue m) ∧ t.sram = s.sram ∧ (∀ d, d ≠ c → t.core d = s.core d) ∧
      (held = [] → t.queue n = { q with under := true } ∧ (t.core c).lpop = (0x4000 ||| n.setWidth 16) ∧ t.ecc = s.ecc) ∧
      (∀ w r, held = w :: r → (t.queue n).words = r ∧ (t.queue n).last = w.v ∧ (t.queue n).under = q.under ∧
        (t.core c).lpop = (bitWord 15 w.poison ||| n.setWidth 16) ∧ t.ecc.ueQ = (s.ecc.ueQ || w.poison) ∧
        (t.queue n).poisoned = (q.poisoned || w.poison))) ∧
    (∃ t, exec (.queBaseWrite n v) s = .next t ∧ OnlyQueue n s t ∧
      t.queue n = if q.en then q else { q with base := v.setWidth 9 }) ∧
    (∃ t, exec (.queCfgWrite n v) s = .next t ∧ (∀ m, m ≠ n → t.queue m = s.queue m) ∧
      (let size : BitVec 9 := v.setWidth 9
       let clash := 511 < q.base.toNat + size.toNat ∨ ∃ m, (s.queue m).en = true ∧ m ≠ n ∧
         q.base.toNat ≤ (s.queue m).base.toNat + (s.queue m).sizeM1.toNat ∧
         (s.queue m).base.toNat ≤ q.base.toNat + size.toNat
       (q.en = true → t.queue n = { q with en := bit v 15 } ∧ t.que.cfgErr = s.que.cfgErr) ∧
       (q.en = false → bit v 15 = false → t.queue n = { q with sizeM1 := size }) ∧
       (q.en = false → bit v 15 = true → clash → t.queue n = { q with sizeM1 := size } ∧ t.que.cfgErr = true) ∧
       (q.en = false → bit v 15 = true → ¬ clash → (t.queue n).en = true ∧ (t.queue n).words = [] ∧
         (t.queue n).last = 0 ∧ (t.queue n).base = q.base ∧ (t.queue n).sizeM1 = size ∧ (t.queue n).thr = q.thr ∧
         t.que.cfgErr = s.que.cfgErr)))

/-- R51, R377, R378 and R432: a read of a low register captures its companions for the reader alone, and a read-clear
register reads 0 after its read while every other register keeps its value. -/
def Obligations.RegisterSideEffects : Prop :=
  ∀ (s : State) (c : CoreId),
    (∃ t, exec (.seqFramelRead c) s = .next t ∧ t.regValue c 0x1000 = s.seq.frame.setWidth 16 ∧
      t.regValue c 0x1001 = (s.seq.frame >>> 16).setWidth 16 ∧ t.regValue c 0x1002 = s.seq.fic ∧
      t.regValue c 0x1003 = s.seq.cir ∧ t.regValue c 0x1004 = s.seq.rot ∧
      ∀ d a, d ≠ c → t.regValue d a = s.regValue d a) ∧
    (∃ t, exec (.seqSteplRead c) s = .next t ∧ t.regValue c 0x100D = (s.seq.step >>> 16).setWidth 16 ∧
      ∀ d a, d ≠ c ∨ a ≠ 0x100D → t.regValue d a = s.regValue d a) ∧
    (∃ t, exec (.timepPpstslRead c) s = .next t ∧ t.regValue c 0x7403 = (s.timep.ts >>> 16).setWidth 16 ∧
      ∀ d a, d ≠ c ∨ a ≠ 0x7403 → t.regValue d a = s.regValue d a) ∧
    (∃ t, exec (.eccUaddrlRead c) s = .next t ∧
      t.regValue c 0xA00B = (place s.ecc.ureq.toNat 13 ||| (s.ecc.uaddr >>> 16).setWidth 16) ∧
      ∀ d a, d ≠ c ∨ a ≠ 0xA00B → t.regValue d a = s.regValue d a) ∧
    (∀ a : Word, isReadClear a.toNat = true → ∃ t, exec (.readClear c a) s = .next t ∧ t.regValue c a.toNat = 0 ∧
      (∀ b, b ≠ a.toNat → b ≠ 0x806 → t.regValue c b = s.regValue c b) ∧ t.sram = s.sram)

/-- R432, R433 and R268: what a register write stores, what a 1 clears, what ignores a write, and the firewall. An access
to a radio block wakes its domains (R388). -/
def Obligations.RegisterWrites : Prop :=
  ∀ (s : State) (c : CoreId) (a v : Word),
    (∀ m, (a.toNat, m) ∈ storedRegs → ∃ t, exec (.registerWrite c a v) s = .next t ∧ t.regValue c a.toNat = v &&& m ∧
      (∀ d b, b ≠ a.toNat → b ∉ shownRegs → t.regValue d b = s.regValue d b) ∧ t.sram = s.sram) ∧
    (s.tablesOk → 0x3000 ≤ a.toNat → a.toNat < 0x3080 → ∃ t, exec (.registerWrite c a v) s = .next t ∧
      t.regValue c a.toNat = v &&& 0xC01F) ∧
    (0x60E0 ≤ a.toNat → a.toNat < 0x6100 → ∃ t, exec (.registerWrite c a v) s = .next t ∧ t.regValue c a.toNat = v) ∧
    (∀ m, (a.toNat, m) ∈ stickyRegs ∨ (0x6080 ≤ a.toNat ∧ a.toNat < 0x60A0 ∧ m = 0x3800) →
      ∃ t, exec (.registerWrite c a v) s = .next t ∧ t.regValue c a.toNat = s.regValue c a.toNat &&& ~~~(v &&& m) ∧
        (∀ b, b ≠ a.toNat → b ≠ 0x806 → t.regValue c b = s.regValue c b) ∧ t.sram = s.sram) ∧
    (readOnly a.toNat = true → exec (.registerWrite c a v) s = .next (s.wakeRadio a.toNat)) ∧
    (c.isT = false → tmonOnlyWrite a.toNat = true →
      exec (.registerWrite c a v) s = .next (s.setCore c { (s.core c) with bada := true }) ∧
        (tmonOnly a.toNat = true → s.pageRead c a.toNat = (0, s.setCore c { (s.core c) with bada := true })))

/-- R276 and R277: the watchdog restarts once every released core has written the key, and expiry enters safe-hold with
cause 0x1. One Tick of an idle block counts it down (log entry 10). -/
def Obligations.WatchdogRules : Prop :=
  ∀ (s : State) (c : CoreId) (v : Word),
    (v ≠ 0xC35A ∨ c.isT = true → exec (.watchdogKick c v) s = .next s) ∧
    (c.isT = false → s.sys.wdOn = true → s.sys.released.getLsbD c.num = true →
      (∀ n, n < 6 → s.sys.kicked.getLsbD n = true → s.sys.released.getLsbD n = true) →
      ∃ t, exec (.watchdogKick c 0xC35A) s = .next t ∧ (∀ d, t.core d = s.core d) ∧
        ((∀ n, n < 6 → s.sys.released.getLsbD n = true → n = c.num ∨ s.sys.kicked.getLsbD n = true) →
          t.sys.wdLeft = s.sys.wdTicks ∧ t.sys.kicked = 0) ∧
        ((∃ n, n < 6 ∧ s.sys.released.getLsbD n = true ∧ n ≠ c.num ∧ s.sys.kicked.getLsbD n = false) →
          t.sys.wdLeft = s.sys.wdLeft ∧ t.sys.kicked.getLsbD c.num = true)) ∧
    (1 < s.sys.wdLeft.toNat → exec .watchdogExpiry s = .next s) ∧
    (s.sys.wdLeft.toNat ≤ 1 → s.sys.wdOn = true → s.safe.on = false → ∃ t, exec .watchdogExpiry s = .next t ∧ t.safe.on = true ∧
      t.safe.cause = 1 ∧ ∀ d, d.isT = false → (t.core d).run = .held) ∧
    (s.pending = [] → s.clk.lock = true → s.pwr.state ≠ .sleep → s.sys.wdOn = true → s.interp.wait = none → s.safe.on = false →
      ∃ t, step s = .next t ∧ (1 < s.sys.wdLeft.toNat → t.sys.wdLeft = s.sys.wdLeft - 1 ∧ t.safe.on = false) ∧
        (s.sys.wdLeft.toNat ≤ 1 → t.safe.on = true ∧ t.safe.cause = 1))

/-- R243, R381, R441 and R442: soft interrupts, queue interrupt lines, and the clock gate of DOZE. -/
def Obligations.CoreSignals : Prop :=
  ∀ (s : State) (c : CoreId) (v : Word),
    (c.isT = true → exec (.sysSoftWrite c v) s = .next s) ∧
    (c.isT = false → ∃ t, exec (.sysSoftWrite c v) s = .next t ∧ t.core c = s.core c ∧
      (∀ d, d.isT = true ∨ bit v d.num = false → t.core d = s.core d) ∧
      (∀ d, d ≠ c → d.isT = false → bit v d.num = true → (s.core d).run = .running →
        t.core d = { (s.core d) with ipend := (s.core d).ipend ||| bitWord (4 + field v 15 14) true })) ∧
    (∀ k : BitVec 3, (field v 13 12 = 3 → exec (.sysQevselWrite c k v) s = .next s) ∧
      (field v 13 12 ≠ 3 → ∃ t, exec (.sysQevselWrite c k v) s = .next t ∧ OnlyCore c s t ∧
        t.regValue c (0x20 + k.toNat) = v &&& 0xF01F ∧
        (let q := s.queue (v.setWidth 5)
         let d := if q.en then q.words.length else 0
         bit (t.ipend c) (8 + k.toNat) =
           (bit v 15 && (bit v 14 != (match field v 13 12 with
             | 0 => decide (1 ≤ d) | 1 => decide (q.thr.toNat ≤ d) | _ => q.under || q.ovr)))))) ∧
    (let pends := (s.ipend c &&& (s.core c).imask) ≠ 0
     (c.isT = false → (s.core c).run = .running → bit v 0 = true → s.pwr.state = .doze →
       (¬ pends → exec (.pwrIdleWrite c v) s = .next (s.setCore c { (s.core c) with run := .gated })) ∧
       (pends → exec (.pwrIdleWrite c v) s = .next s)) ∧
     (s.pwr.state = .run → exec (.pwrIdleWrite c v) s = .next s) ∧
     ((s.core c).run = .gated → pends →
       exec (.idleWake c) s = .next (s.setCore c { (s.core c) with run := .running })) ∧
     ((s.core c).run ≠ .gated → exec (.idleWake c) s = .next s))

/-! ### Clock and transmit path -/

/-- R11 to R16: loss of the PLL stops transmission and reception and gives the Tick to the reference from the next Tick
edge on, a relock leaves reception and transmission off until the next slot boundary, and what CLKOUT carries, whose setting
changes at the end of a low phase and makes no pulse shorter than a Tick. -/
def Obligations.ClockRules : Prop :=
  ∀ s : State,
    (∀ e, s.clk.lock = true → ∃ t, exec (.pllLossOfLock e) s = .next t ∧ t.clk.lock = false ∧ t.clk.lol = true ∧
      t.clk.ticksrc = true ∧ t.clk.rxHold = true ∧ t.seq.tick = s.seq.tick ∧ t.gate = s.gate ∧
      t.tickFromRef = s.tickFromRef ∧
      (s.clk.ticksrc = false → ∀ u : State, u.clk = t.clk → u.tickNo ≠ t.tickNo → u.tickFromRef = true) ∧
      (∀ x, s.seq.tx = some x → x.phase = .onAir → t.seq.tx = some { x with phase := .rampDown, cutAt := some e }) ∧
      ∀ lane p, ∃ u, exec (.lanePacketAccept lane p) t = .next u ∧ u.sram = t.sram ∧ u.que = t.que ∧ u.lane = t.lane) ∧
    (∀ e, s.clk.lock = false → exec (.pllLossOfLock e) s = .next s) ∧
    (s.clk.xordy = true → s.pwr.state = .run ∨ s.pwr.state = .doze → ∃ t, exec .pllRelock s = .next t ∧
      t.clk.lock = true ∧ t.clk.ticksrc = false ∧ t.clk.lol = s.clk.lol ∧ t.clk.rxHold = s.clk.rxHold ∧
      t.tickFromRef = s.tickFromRef ∧
      (s.clk.ticksrc = true → ∀ u : State, u.clk = t.clk → u.tickNo ≠ t.tickNo → u.tickFromRef = false)) ∧
    (∀ v : Word, let d := field v 11 0
      (d = 0 ∨ 3840 < d → exec (.clkOutcfgWrite v) s = .next s) ∧
      (1 ≤ d → d ≤ 3840 → ∃ t, exec (.clkOutcfgWrite v) s = .next t ∧ (∀ c, t.regValue c 0x401 = v &&& 0xCFFF) ∧
        t.clk.outAct = (if bit s.clk.outAct 15 then s.clk.outAct else v &&& 0xCFFF) ∧
        (bit s.clk.outAct 15 = false → bit v 15 = true → bit v 14 = true → t.clkout = .pulse false ∧
          ∀ u : State, u.clk = t.clk → u.pins = t.pins → u.tickNo ≠ t.tickNo → u.clkout = .pulse (u.seq.tick == 0)))) ∧
    (∃ t, exec .clkoutConfigApply s = .next t ∧ t.clk.outAct = s.clk.outCfg ∧ t.clk.outCfg = s.clk.outCfg ∧
      (let n := field s.clk.outCfg 11 0
       (bit s.clk.outCfg 15 = false ∨ s.pwr.state = .sleep → t.clkout = .low) ∧
       (bit s.clk.outCfg 15 = true → s.pwr.state ≠ .sleep →
         (bit s.clk.outCfg 14 = true → t.clkout = .pulse (t.seq.tick == 0 && t.clk.outAt != some t.tickNo)) ∧
         (bit s.clk.outCfg 14 = false → n = 1 → t.clkout = .divided 1 1) ∧
         (bit s.clk.outCfg 14 = false → 2 ≤ n → ∃ h l, t.clkout = .divided h l ∧ h + l = 2 * n ∧ h % 2 = 0 ∧ l ≤ h ∧
           h ≤ l + 2))))

/-- R21, R25, R38, R172 to R175: the commit decision of a slot whose clear-channel window is open: nothing without an
arm bit, else SYNLATE, GATED or BLOCKED as the first condition that fails, else the transmission with its charge. What
R168 takes into the PA setting is in a free value (log entry 67). -/
def Obligations.CommitDecision : Prop :=
  ∀ (s : State) (slot : BitVec 3) (cca : Cca) (carrier : Nat) (k : BitVec 9),
    let n := slot.toNat
    let p := s.slotPlan n
    let e := planEntry p n
    let x := (s.txCandidate slot carrier).1
    let r := regionRange (s.region.getD []) x.range
    let locked := s.syn.on = true ∧ s.syn.lock = true ∧ s.syn.idx = entryIdx e ∧ s.syn.carrier = carrier ∧
      s.clk.lock = true
    let budget := x.inRange = true ∧ (r.duty = 1000 ∨ (x.onair : Int) ≤ s.gate.budget r x.range x.frame.toNat)
    let busy := r.lbt = true ∧ (r.lbtthr < ccaEnergy cca ∨ cca.stale = true ∨ cca.blanked = true)
    let resq : BitVec 5 := s.tx.cfg.setWidth 5
    s.seq.stopped = false → s.seq.cca = some ⟨slot, carrier, k⟩ → (planSlot p n).role ≠ roleW ∨ wFirst p n = n →
    ∃ t, exec (.commitPoint slot cca) s = .next t ∧ t.seq.tick = s.seq.beforeSlot n 19 ∧ t.seq.arm.getLsbD n = false ∧
      t.seq.cca = none ∧
      (s.seq.arm.getLsbD n = false ∨ s.slotSends n = false →
        t.seq.tx = s.seq.tx ∧ t.gate = s.gate ∧ t.que = s.que ∧ t.afw.orders = s.afw.orders) ∧
      (s.seq.arm.getLsbD n = true → s.slotSends n = true →
        (¬ locked → Reported s t resq 1 n e.tag ∧ t.seq.tx = s.seq.tx ∧ t.gate = s.gate) ∧
        (locked → ¬ budget → Reported s t resq 2 n e.tag ∧ t.seq.tx = s.seq.tx ∧ t.gate = s.gate) ∧
        (locked → budget → busy → Reported s t resq 3 n e.tag ∧ t.seq.tx = s.seq.tx ∧ t.gate = s.gate) ∧
        (locked → budget → ¬ busy → t.seq.tx = some x ∧ t.gate = s.gate.charge x.range x.frame.toNat x.onair ∧
          t.que = s.que ∧ x.tag = e.tag ∧
          ((planSlot p n).role ≠ roleW → x.onair = packetTicks (planSlot p n).cls x.bytes.length e.fec)))

/-- R162: the divider is the smallest that brings the VCO to 3,400 MHz or more, and NINT and K are the VCO frequency in
units of 38.4 MHz / 2^22, rounded to nearest. Carriers c in units of 50 Hz, dividers doubled. -/
def SynthesiserLaw (c : Nat) : Prop :=
  let m := synDivider c
  m ∈ synDividers ∧ 68000000 * 2 ≤ c * m ∧ (∀ x, x ∈ synDividers → x < m → c * x < 68000000 * 2) ∧
    synFrac c < 4194304 ∧ 2 * (c * m * 4194304) ≤ 1536000 * (2 * (synNint c * 4194304 + synFrac c) + 1) ∧
    1536000 * (2 * (synNint c * 4194304 + synFrac c)) ≤ 2 * (c * m * 4194304) + 1536000

/-- R160 to R167, R169, R170, R174, R175: the course of a transmission from the clear-channel window to its result, and
what each of its events is when there is none. A cut before the carrier is up is the model's reading (log entry 27), as
is the trim of PA_VCTL (log entry 67). -/
def Obligations.TransmitCourse : Prop :=
  (∀ c : Nat, 136000000 ≤ c * 60 → SynthesiserLaw c) ∧
  ∀ s : State,
    (∀ slot : BitVec 3, let n := slot.toNat
      let e := planEntry (s.slotPlan n) n
      let c := (chanCentre (s.cen e.win) e.bin (binsOf (planSlot (s.slotPlan n) n).cls)).toNat
      let stays := s.syn.on = true ∧ s.syn.lock = true ∧ s.syn.idx = entryIdx e ∧ s.syn.carrier = c
      (s.slotSends n = true → ∃ t, exec (.clearChannelWindowOpen slot) s = .next t ∧ t.seq.cca = some ⟨slot, c, entryIdx e⟩ ∧
        t.seq.tick = s.seq.beforeSlot n 67 ∧ t.gate = s.gate ∧ t.seq.tx = s.seq.tx ∧ (stays → t.syn = s.syn) ∧
        (¬ stays → t.syn.on = true ∧ t.syn.lock = false ∧ t.syn.idx = entryIdx e ∧ t.syn.carrier = c ∧
          t.syn.div2 = synDivider c ∧ t.syn.nint = synNint c ∧ t.syn.frac = synFrac c ∧
          t.syn.fullCal = !t.syn.valid (entryIdx e).toNat ∧ t.syn.inval0 = false ∧ t.syn.inval1 = false)) ∧
      (s.slotSends n = false → ∃ t, exec (.clearChannelWindowOpen slot) s = .next t ∧ t.syn = s.syn ∧
        t.seq.cca = s.seq.cca)) ∧
    (∀ w0 w1, (s.syn.on = true → s.syn.lock = false → s.tablesOk → ∃ t, exec (.synthLock w0 w1) s = .next t ∧
        t.syn.lock = true ∧ t.syn.idx = s.syn.idx ∧ t.seq = s.seq ∧
        (s.syn.fullCal = true → t.syn.valid s.syn.idx.toNat = true ∧
          ∀ k, k ≠ s.syn.idx.toNat → t.syn.valid k = s.syn.valid k) ∧
        (s.syn.fullCal = false → t.syn.table = s.syn.table)) ∧
      (s.syn.on = false ∨ s.syn.lock = true → exec (.synthLock w0 w1) s = .next s)) ∧
    (∀ e, ∃ t, exec (.synthUnlock e) s = .next t ∧ t.syn.lock = false ∧ t.gate = s.gate ∧
      (s.seq.tx = none → t.seq = s.seq ∧ t.syn.unlk = s.syn.unlk) ∧
      (∀ x, s.seq.tx = some x → x.phase ≠ .rampDown → t.syn.unlk = true ∧
        t.seq.tx = some { x with phase := .rampDown, cutAt := some e })) ∧
    (∀ v, ∃ t, exec (.txCfgWrite v) s = .next t ∧ (∀ c, t.regValue c 0x4000 = v &&& 0xF01F) ∧ t.tx.cfgAct = s.tx.cfgAct ∧
      t.seq = s.seq ∧ t.pins = s.pins) ∧
    (∀ v, s.tablesOk → ∃ t, exec (.synInvalWrite v) s = .next t ∧
      (∀ k, t.syn.valid k = s.syn.valid k) ∧ t.syn.inval0 = (s.syn.inval0 || bit v 0) ∧
      t.syn.inval1 = (s.syn.inval1 || bit v 1) ∧ t.syn.lock = s.syn.lock ∧ t.syn.idx = s.syn.idx ∧ t.seq = s.seq ∧
      (∀ (k : BitVec 9) carrier, ¬ (s.syn.on = true ∧ s.syn.lock = true ∧ s.syn.idx = k ∧ s.syn.carrier = carrier) →
        ∀ j, j < 512 → (t.syn.start k carrier).valid j =
          (s.syn.valid j && !(if 256 ≤ j then t.syn.inval1 else t.syn.inval0)))) ∧
    (∃ t, exec .blankingEnd s = .next t ∧ t.tx.txOn = false ∧ t.pins.paEn = false ∧
      t.pins.trsw = (s.tx.cfgWritten && bit s.tx.cfgAct 12) ∧ t.seq = s.seq ∧ t.gate = s.gate) ∧
    (s.seq.tx = none → (∀ det, exec (.txRampUp det) s = .next s ∧ exec (.rampDownStart det) s = .next s) ∧
      (∀ power, exec (.txRampDownEnd power) s = .next s) ∧ exec .txmaxCut s = .next s) ∧
    (∀ x, s.seq.tx = some x →
      (x.phase = .committed → ∀ det, ∃ t, exec (.txRampUp det) s = .next t ∧
        t.seq.tx = some { x with phase := .onAir, up := true } ∧ t.tx.txOn = true ∧ t.pins.paEn = s.tx.extPa ∧
        t.pins.trsw = (s.tx.cfgWritten && !bit s.tx.cfgAct 12) ∧ t.gate = s.gate ∧
        (s.tx.extPa = true → t.tx.vctl.toNat ≤ s.vctlMax) ∧ (s.tx.extPa = false → t.tx.vctl = 0)) ∧
      (x.phase = .onAir → (∀ det, ∃ t, exec (.rampDownStart det) s = .next t ∧
          t.seq.tx = some { x with phase := .rampDown } ∧ t.gate = s.gate ∧ t.tx.vctl.toNat ≤ s.tx.vctl.toNat) ∧
        (let r := regionRange (s.region.getD []) x.range
         (r.txmax * 96 < x.onair * 10 → ∃ t m, exec .txmaxCut s = .next t ∧
           t.seq.tx = some { x with phase := .rampDown, cutAt := some m } ∧ r.txmax * 96 ≤ m * 10 ∧ m * 10 < r.txmax * 96 + 10) ∧
         (x.onair * 10 ≤ r.txmax * 96 → exec .txmaxCut s = .next s))) ∧
      (x.phase = .rampDown → ∀ power, ∃ t, exec (.txRampDownEnd power) s = .next t ∧ t.seq.tx = none ∧
        t.tx.pwr = (if s.powerHeld then s.tx.pwr else power) ∧ t.tx.last = some x ∧
        (s.tx.extPa = false ∨ x.up = false → t.tx.codes = s.tx.codes) ∧
        (s.tx.extPa = true → x.up = true → t.tx.codes.find? (fun c => c.1 == x.range) = some (x.range, s.tx.vctl)) ∧
        (x.cutAt = none → t.gate = s.gate ∧ Reported s t (s.tx.cfgAct.setWidth 5) 0 x.slot.toNat x.tag) ∧
        (∀ c, x.cutAt = some c → t.gate = s.gate.correct x.range x.frame.toNat x.onair (min c x.onair) ∧
          Reported s t (s.tx.cfgAct.setWidth 5) 5 x.slot.toNat x.tag)))

/-- R172, R174, R179, R180: charges add up, a transmission that passes leaves the budget at 0 or more, a correction
takes back what was not sent, and a cold start leaves no budget. -/
def Obligations.DutyStore : Prop :=
  ∀ (g : Gate) (r : Range) (j : Nat) (f lo hi : Int) (t u : Nat), g.single →
    (g.charge j f t).single ∧
    (g.charge j f t).charged j lo hi = g.charged j lo hi + (if lo ≤ f ∧ f ≤ hi then t else 0) ∧
    (∀ i, i ≠ j → (g.charge j f t).charged i lo hi = g.charged i lo hi) ∧
    (r.duty ≠ 1000 → g.passes r j f t = true → 0 ≤ (g.charge j f t).budget r j f) ∧
    (g.passes r j f t = false → r.duty ≠ 1000 ∧ g.budget r j f < (t : Int)) ∧
    (u ≤ t → ((g.charge j f t).correct j f t u).charged j lo hi = g.charged j lo hi + (if lo ≤ f ∧ f ≤ hi then u else 0)) ∧
    (∀ c : Int, r.dwin ≤ 3600 → 1 ≤ t → r.duty ≠ 1000 → (g.fill c).passes r j c t = false) ∧
    ((g.advance f).charged j (f - 3600) hi = g.charged j (f - 3600) hi)

/-! ### Slots and frames -/

/-- R11, R20, R139, R147, R164, R243, R435: what a slot boundary puts in force. In SLEEP the Tick stands still, and with the
sequencer stopped only Tick and slot go on. -/
def Obligations.SlotBoundaries : Prop :=
  ∀ s : State,
    (s.pwr.state = .sleep → exec .slotBoundary s = .next s) ∧
    (s.pwr.state ≠ .sleep → s.seq.stopped = true → exec .slotBoundary s =
      .next { s with seq := { s.seq with slot := s.seq.slot + 1, tick := 1200 * (s.seq.slot + 1).toNat } }) ∧
    (s.pwr.state ≠ .sleep → s.seq.stopped = false → ∃ t, exec .slotBoundary s = .next t ∧ t.seq.slot = s.seq.slot + 1 ∧
      t.seq.tick = 1200 * t.seq.slot.toNat ∧ t.seq.frame = s.seq.frame ∧ t.seq.cur = s.seq.cur ∧ t.seq.arm = s.seq.arm ∧
      t.rxw.cenAct0 = s.rxw.cen0 ∧ t.rxw.cenAct1 = s.rxw.cen1 ∧ t.rxw.agcActA = s.rxw.agcA ∧
      t.rxw.agcActB = s.rxw.agcB ∧ t.lane.cfgAct = s.lane.cfg ∧ t.lane.bufqAct = s.lane.bufq ∧
      t.lane.filtAct = s.lane.filt ∧ t.lane.ownAct = s.lane.own ∧ t.lane.taken = [] ∧ Raised s t 1 ∧
      t.pwr.chan = (t.curRole != roleX || t.searching) ∧ t.clk.rxHold = (s.clk.rxHold && !s.clk.lock) ∧ t.sram = s.sram ∧ t.gate = s.gate ∧
      (field s.rxw.agcA 15 14 = 2 → t.rxw.gainA.toNat = field s.rxw.agcA 5 2) ∧
      (s.tablesOk → s.rxw.cen0 ≠ s.rxw.cenAct0 →
        (s.syn.on = false ∨ s.syn.idx.getLsbD 8 = true → ∀ k, k < 256 → t.syn.valid k = false) ∧
        (s.syn.on = true → s.syn.idx.getLsbD 8 = false → t.syn.inval0 = true)))

/-- R143 and R145 to R148: gain decisions, none in a slot without reception or wholly blanked, gain configuration and the
noise floor filter. That AUTO1 keeps a state of its own beside the eight of AUTO8 is the model's choice (log entry 72). -/
def Obligations.GainAndNoise : Prop :=
  ∀ s : State,
    (∀ a b : AgcIn, let idle := s.rxSlot = false ∨ (s.rxw.blankAll = true ∧ s.tx.txOn = true)
      ∃ t, exec (.agcDecision a b) s = .next t ∧
        (¬ idle → AgcStep s.rxw.agcActA s.seq.slot a s.rxw.statesA t.rxw.statesA ∧
          AgcStep s.rxw.agcActB s.seq.slot b s.rxw.statesB t.rxw.statesB) ∧
        (idle → t.rxw.statesA = s.rxw.statesA ∧ t.rxw.statesB = s.rxw.statesB) ∧ t.rxw.gainA = s.rxw.gainA ∧
        t.rxw.gainB = s.rxw.gainB ∧ t.rxw.clipA = (s.rxw.clipA || a.clip) ∧ t.rxw.clipB = (s.rxw.clipB || b.clip)) ∧
    (∀ (v : Word) (ant : Ant),
      (field v 15 14 = 3 ∨ field v 13 10 < field v 9 6 → exec (.rxwAgccfgWrite ant v) s = .next (s.wakeRadio 0x2004)) ∧
      (field v 15 14 ≠ 3 → field v 9 6 ≤ field v 13 10 → ∃ t, exec (.rxwAgccfgWrite ant v) s = .next t ∧
        t.rxw.agcA = (if ant = .a then v &&& 0xFFFC else s.rxw.agcA) ∧
        t.rxw.agcB = (if ant = .b then v &&& 0xFFFC else s.rxw.agcB) ∧ t.rxw.agcActA = s.rxw.agcActA)) ∧
    (∀ (k : BinKey) (e : Int), ∃ t, exec (.noiseFloorUpdate [(k, e)]) s = .next t ∧
      (s.nfSkips k = true → t.rxw = s.rxw) ∧
      (s.nfSkips k = false → ∀ l, l = (s.floorOf k).1 → ∃ l', (t.floorOf k).1 = l' ∧
        16 * (l' - l) ≤ min e (l + 24) - l + 8 ∧ min e (l + 24) - l + 8 < 16 * (l' - l) + 16 ∧
        ∀ m, m ≠ k → t.floorOf m = s.floorOf m))

/-- R38, R43, R47, R49, R66 and R428: arm bits, the cycle plan, PPSEN and the extension of a step, which waits while an
accepted order is outstanding and which a relay in safe-hold leaves out. The frame that carries a step: log entry 25. A fine
correction beside it: log entry 64. -/
def Obligations.SequencerRegisters : Prop :=
  ∀ (s : State) (v : Word),
    (s.seq.armBlock = false → ∃ t, exec (.seqTxarmSetWrite v) s = .next t ∧
      t = { s with seq := { s.seq with arm := s.seq.arm ||| v.setWidth 8 } }) ∧
    (s.seq.armBlock = true → exec (.seqTxarmSetWrite v) s = .next s) ∧
    (∃ t, exec (.seqTxarmClrWrite v) s = .next t ∧
      (∀ n, n < 8 → t.seq.arm.getLsbD n = (s.seq.arm.getLsbD n && !bit v n)) ∧ t.seq.tx = s.seq.tx) ∧
    (let n := field v 11 0
     (60 ≤ n → n ≤ 3600 → ∃ t, exec (.seqCyclenWrite v) s = .next t ∧ t.seq.cycPend = some (BitVec.ofNat 12 n) ∧
       t.seq.cycLen = s.seq.cycLen ∧ t.seq.rotPend = s.seq.rotPend) ∧
     (n < 60 ∨ 3600 < n → exec (.seqCyclenWrite v) s = .next s)) ∧
    (let n := field v 9 0
     (1 ≤ n → n ≤ 1008 → ∃ t, exec (.seqRotlenWrite v) s = .next t ∧ t.seq.rotPend = some (BitVec.ofNat 10 n) ∧
       t.seq.rotLen = s.seq.rotLen ∧ t.seq.cycPend = s.seq.cycPend) ∧
     (n = 0 ∨ 1008 < n → exec (.seqRotlenWrite v) s = .next s)) ∧
    (∃ t, exec (.seqTcfgWrite v) s = .next t ∧ (∀ c, t.regValue c 0x100B = v &&& 0x8000) ∧
      t.seq.ppsenAct = s.seq.ppsenAct) ∧
    (let may := if s.isRelay then s.safe.on = false else s.afw.orders = []
     s.seq.stepFrame = some s.seq.frame →
      (may → ∃ t, exec .stepExtension s = .next t ∧ t.seq.step = 0 ∧
        t.seq.stepPend = false ∧ t.seq.stepFrame = none ∧ t.seq.absRef = s.seq.absRef + s.seq.step.toNat ∧
        t.seq.frame = s.seq.frame ∧ t.seq.slot = s.seq.slot) ∧
      (¬ may → exec .stepExtension s = .next { s with seq := { s.seq with stepFrame := none } })) ∧
    (s.seq.stepFrame ≠ some s.seq.frame → exec .stepExtension s = .next s)

/-- R39 to R42: a plan is latched only when its validation has passed, a rejected one is discarded and sets PLANREJ,
and the second rejection in a Cycle enters safe-hold. Tests use the centres as set (log entry 62). What no ground of
R39 meets passes (log entry 64), but that a header of another version fails is the model's choice (log entry 24). -/
def Obligations.PlanLifecycle : Prop :=
  ∀ s : State,
    (s.seq.stopped = false → ∃ t, exec .latchPoint s = .next t ∧ t.seq.tick = 9504 ∧ t.seq.cur = s.seq.cur ∧
      Raised s t 3 ∧
      (∀ p, s.seq.pend = some p → p.validated = true → t.seq.next = some p.plan ∧ t.seq.pend = none) ∧
      (∀ p, s.seq.pend = some p → p.validated = false → t.seq.next = s.seq.next ∧ t.seq.pend = some p) ∧
      (s.seq.pend = none → t.seq.next = s.seq.next ∧ t.seq.pend = none)) ∧
    (s.seq.pend = none → ∃ t, exec .planValidationEnd s = .next t ∧ t.seq.pend = none ∧ t.seq.planRej = s.seq.planRej) ∧
    (∀ p, s.seq.pend = some p → p.validated = false → s.safe.on = false →
      (planFault s.region s.cenNew p.plan = none → ∃ t, exec .planValidationEnd s = .next t ∧
        t.seq.pend = some { p with validated := true } ∧ t.seq.cur = s.seq.cur ∧ t.seq.planRej = s.seq.planRej) ∧
      (∀ g, planFault s.region s.cenNew p.plan = some g → ∃ t, exec .planValidationEnd s = .next t ∧
        t.seq.planRej = true ∧ t.seq.cur = s.seq.cur ∧ t.seq.rejInCycle = s.seq.rejInCycle + 1 ∧
        (s.seq.rejInCycle = 0 → t.seq.pend = none ∧ t.safe.on = false) ∧
        (0 < s.seq.rejInCycle → t.safe.on = true ∧ t.safe.cause = 4)))

/-- R40, R44, R50, R179, R243 and R412: what a frame boundary counts, takes up and records. -/
def Obligations.FrameBoundaries : Prop :=
  ∀ (s : State) (temp : BitVec 10) (vpa : BitVec 13) (est : EstMeas),
    (s.pwr.state = .sleep → exec (.frameBoundary temp vpa est) s = .next s) ∧
    (s.pwr.state ≠ .sleep → ∃ t, exec (.frameBoundary temp vpa est) s = .next t ∧ t.seq.frame = s.seq.frame + 1 ∧
      t.seq.tick = 0 ∧ t.gate = s.gate.advance t.frm ∧ t.aon.frec = some t.seq.record ∧ t.otp = s.otp ∧
      (s.isRelay = false →
        let cyc := s.seq.cycLen.toNat ≤ s.seq.fic.toNat + 1
        let rot := cyc ∧ s.seq.rotLen.toNat ≤ s.seq.cir.toNat + 1
        (cyc → t.seq.fic = 0 ∧ t.seq.cycLen = s.seq.cycPend.getD s.seq.cycLen ∧ t.seq.cycPend = none) ∧
        (¬ cyc → t.seq.fic = s.seq.fic + 1 ∧ t.seq.cir = s.seq.cir ∧ t.seq.cycLen = s.seq.cycLen ∧
          t.seq.cycPend = s.seq.cycPend) ∧
        (rot → t.seq.cir = 0 ∧ t.seq.rot = s.seq.rot + 1 ∧ t.seq.rotLen = s.seq.rotPend.getD s.seq.rotLen) ∧
        (¬ rot → t.seq.rot = s.seq.rot ∧ t.seq.rotLen = s.seq.rotLen ∧ t.seq.rotPend = s.seq.rotPend ∧
          (cyc → t.seq.cir = s.seq.cir + 1))) ∧
      (s.seq.stopped = true → t.seq.cur = s.seq.cur ∧ t.cores = s.cores ∧ t.sram = s.sram) ∧
      (s.seq.stopped = false → Raised s t 2 ∧ ((∀ x ∈ s.cal.steps, x.part ≠ .padet) → t.cal.temp = temp ∧ t.cal.vpa = vpa) ∧
        t.sys.dutyFrm = s.seq.frame ∧
        (∀ j, j < 8 → t.sys.dutyTot.getD j 0 = BitVec.ofNat 16 (s.gate.charged j s.frm s.frm)) ∧
        (∀ p, s.seq.next = some p → t.seq.cur = some p ∧ t.seq.next = none) ∧
        (s.seq.next = none → t.seq.cur = s.seq.cur ∧ t.seq.next = none)))

/-! ### Time -/

/-- R46, R47 and R358: PPS edges, their qualification, fine corrections and steps, and holdover. The count of edges,
the frame of a correction and HOLDOVER after lock are the model's readings (log entry 25). The lock and a deferred
step stay (log entry 64). -/
def Obligations.PpsAlignment : Prop :=
  ∀ (s : State) (stamp : BitVec 26),
    let at_ := s.seq.absRef + stamp.toNat
    let e : Int := if stamp.toNat ≤ 19200000 then (stamp.toNat : Int) else (stamp.toNat : Int) - 38400000
    let follows := s.afw.ready = true ∧ s.seq.ppsenAct = true ∧ s.isRelay = false
    (∃ t, exec (.ppsEdge false stamp) s = .next t ∧ t = { s with timep := { s.timep with short := true } }) ∧
    (∃ t, exec (.ppsEdge true stamp) s = .next t ∧ (∀ c, t.regValue c 0x7401 = s.timep.ppsCnt + 1) ∧
      t.timep.ts = stamp ∧ t.seq.frame = s.seq.frame ∧
      (¬ follows → t.seq = s.seq) ∧
      (follows → s.seq.lastPps = none → t.seq.lastPps = some at_ ∧ t.seq.ppsRun = 1 ∧ t.seq.corrNext = s.seq.corrNext) ∧
      (∀ l, follows → s.seq.lastPps = some l → at_ < l + 38400000 - 1920 →
        t.seq.lastPps = some l ∧ t.seq.ppsRun = s.seq.ppsRun ∧ t.seq.corrNext = s.seq.corrNext) ∧
      (∀ l, follows → s.seq.lastPps = some l → l + 38400000 - 1920 ≤ at_ → at_ ≤ l + 38400000 + 1920 →
        t.seq.lastPps = some at_ ∧
        (s.seq.ppsRun < 2 → t.seq.ppsRun = s.seq.ppsRun + 1 ∧ t.seq.corrNext = s.seq.corrNext) ∧
        (2 ≤ s.seq.ppsRun → e.natAbs ≤ 4000 → t.seq.corrNext = max (-1024) (min 1024 e) ∧ t.seq.holdover = false ∧
          t.seq.ppsLock = (s.seq.ppsLock || decide (e.natAbs ≤ 38))) ∧
        (2 ≤ s.seq.ppsRun → 4000 < e.natAbs → stamp.toNat < 38400000 → s.seq.stepFrame = none →
          t.seq.stepPend = true ∧ (t.seq.step.toNat : Int) = (if e < 0 then 38400000 + e else e) ∧
          (s.afw.orders = [] → t.seq.stepFrame = some (s.seq.frame + 2) ∧ t.seq.corrNext = 0) ∧
          (s.afw.orders ≠ [] → t.seq.stepFrame = none ∧ t.seq.corrNext = max (-1024) (min 1024 e))))) ∧
    (s.seq.ppsenAct = true → s.isRelay = false → ∃ t, exec .ppsHoldover s = .next t ∧ t.seq.ppsLock = false ∧
      (s.seq.ppsLock = true → t.seq.holdover = true) ∧ t.seq.lastPps = none ∧ t.seq.frame = s.seq.frame) ∧
    (s.seq.ppsenAct = false ∨ s.isRelay = true → exec .ppsHoldover s = .next s)

/-- R44, R77, R94, R96, R131 and R211 to R214: a relay takes its time from an upstream beacon whose MIC, source, depth
and frame number are right, places itself by the first one, counts the missed ones, and after 120 frames of HOLDOVER
is an ORPHAN. Cycle lengths between beacons: log entry 32. SAFE in HOLDOVER: log entry 65. Where SEARCH places itself is the
model's choice: it reads the class that AFW's record holds for slot 0 (log entry 68). How AFW takes a descriptor from its queue
and returns the buffer is log entry 60, the mean of fewer than 64 corrections log entry 64. -/
def Obligations.RelayTime : Prop :=
  ∀ s : State,
    (∀ r d f b, s.openBeacon r d f = some b →
      let h := Header.ofBytes (s.packetBytes d.buf 144)
      d.fok = true ∧ h.type = 1 ∧ h.key = true ∧ h.dst = 0xFFFF ∧ h.src = r.upstream ∧ h.frm = lo16 f ∧
        b.depth + 1 = r.depth ∧ b.frameH = f / 65536 ∧
        ∃ key p, keyPresent key = true ∧ b = Beacon.ofBytes p ∧
          ccmOpenBytes key (nonceBytes 1 s.district h.src h.dst f 0 (r.depth - 1) 0 0)
            ((s.packetBytes d.buf 144).take 8) (((s.packetBytes d.buf 144).drop 10).take 15)
            (((s.packetBytes d.buf 144).drop 25).take 4) = some p) ∧
    (∀ (r : RelayCfg) (m : Word) (desc : List Word), s.relay = some r → s.afw.ready = true → s.safe.on = false →
      let d := s.desc desc
      let tracks (t : State) (b : Beacon) : Prop := t.seq.rstate = 2 ∧ t.seq.miss = 0 ∧ t.seq.orphan = false ∧
        t.seq.hold = 0 ∧ t.seq.safeUp = b.safe ∧
        (b.safe = true → ∀ x, x ∈ t.afw.relayEntries → x.sent = true)
      (s.searching = false →
        (s.openBeacon r d d.frame = none → exec (.upstreamBeaconReceived m desc) s = .next (s.takeDesc desc)) ∧
        (∀ b, s.openBeacon r d d.frame = some b → ∃ t, exec (.upstreamBeaconReceived m desc) s = .next t ∧ tracks t b ∧
          t.frm = s.frm ∧ t.seq.tick = s.seq.tick ∧ t.seq.fic = BitVec.ofNat 16 b.fic ∧
          t.seq.cir = BitVec.ofNat 16 b.cir ∧ t.seq.rot = b.rot ∧ t.seq.roffs = m ∧
          t.seq.corr = max (-1024) (min 1024 (m.toInt + meanCorr s.seq.corrHist)))) ∧
      (s.searching = true →
        (s.searchBeacon r d = none → exec (.upstreamBeaconReceived m desc) s = .next (s.takeDesc desc)) ∧
        (∀ f b, s.searchBeacon r d = some (f, b) →
          let pos := hopStart (r.depth - 1) + symTicks (s.afw.current.cls 0) 56 +
            (s.now - (9600 * d.frame + 1200 * d.slot + d.sync / 16))
          s.openBeacon r d f = some b ∧
          ∃ t, exec (.upstreamBeaconReceived m desc) s = .next t ∧ tracks t b ∧
            t.seq.frame = BitVec.ofNat 32 (f + pos / 9600) ∧ t.seq.tick = pos % 9600 ∧
            t.seq.slot.toNat = pos % 9600 / 1200 ∧
            (pos < 9600 → t.seq.fic = BitVec.ofNat 16 b.fic ∧ t.seq.cir = BitVec.ofNat 16 b.cir ∧ t.seq.rot = b.rot)))) ∧
    (s.isRelay = false → ∀ m desc, exec (.upstreamBeaconReceived m desc) s = .next s) ∧
    (s.isRelay = true → 2 ≤ s.seq.rstate.toNat → ∃ t, exec .upstreamBeaconMiss s = .next t ∧
      t = { s with seq := { s.seq with rstate := 3, miss := if s.seq.miss = 0xFF then 0xFF else s.seq.miss + 1 } }) ∧
    (s.isRelay = false ∨ s.seq.rstate.toNat ≤ 1 → exec .upstreamBeaconMiss s = .next s) ∧
    (s.isRelay = true → s.seq.rstate = 3 → s.seq.orphan = false → 120 ≤ s.seq.hold →
      ∃ t, exec .relayOrphan s = .next t ∧ t.seq.orphan = true ∧ t.seq.rstate = 3 ∧ t.ownSafe = true ∧
        (∀ x, x ∈ t.afw.relayEntries → x.sent = true) ∧ t.afw.forwards = []) ∧
    (s.seq.hold < 120 → exec .relayOrphan s = .next s)

/-! ### Reception, delivery and the engine -/

/-- R12, R27, R80, R87, R90, R139, R148, R150 to R152, R155 to R157: in a U slot a lane that hears takes one packet,
whose start, 56 symbols before the sync end, lies within 4 Ticks of Tick 16 and whose sync word differs in at most 2 of 24
symbols: a failed header, a foreign destination or a missing buffer only counts; else the buffer holds the byte count and the
bytes as received, zeros for those not heard, and the descriptor is pushed. How symbols are sliced, and that a header which is
not complete by Tick 1,200 counts as failed: log entry 66. -/
def Obligations.LanePackets : Prop :=
  ∀ (s : State) (lane : BitVec 7) (p : RxPacket),
    let m := s.laneMap lane.toNat
    let first : Int := (p.syncEnd : Int) - 56 * (if m.width = 0 then 32 else if m.width = 1 then 16 else 8)
    let cfg := s.lane.cfgAct.get0 lane.toNat
    let fq : BitVec 5 := s.lane.bufqAct.setWidth 5
    let dq : BitVec 5 := cfg.setWidth 5
    let heard (x : RxBranch) : Prop := syncErrors s.district x.sync ≤ 2
    let drop (w : Word) : Word := if w = 0xFFFF then w else w + 1
    (s.clk.lock = false ∨ s.clk.rxHold = true ∨ s.seq.stopped = true ∨ m.en = false ∨ s.cen m.win = 0 ∨
        s.tx.txOn = true ∨ first < 16 * (s.rxw.blankEnd : Int) →
      ∃ t, exec (.lanePacketAccept lane p) s = .next t ∧ t.sram = s.sram ∧ t.que = s.que ∧ t.lane = s.lane) ∧
    (s.memOk → s.isRelay = false → s.safe.on = false → s.clk.lock = true → s.clk.rxHold = false → s.seq.stopped = false →
      s.curRole = roleU → m.en = true → s.cen m.win ≠ 0 → s.tx.txOn = false → 16 * (s.rxw.blankEnd : Int) ≤ first →
      (¬ (12 * 16 ≤ first ∧ first ≤ 20 * 16) ∨ (lane.toNat, 0) ∈ s.lane.taken ∨ (¬ heard p.a ∧ ¬ heard p.b) →
        ∃ t, exec (.lanePacketAccept lane p) s = .next t ∧ t.sram = s.sram ∧ t.que = s.que ∧ t.lane = s.lane) ∧
      (12 * 16 ≤ first → first ≤ 20 * 16 → (lane.toNat, 0) ∉ s.lane.taken → field cfg 15 14 = 0 → heard p.a ∨ heard p.b →
        ∃ t antB, exec (.lanePacketAccept lane p) s = .next t ∧ (lane.toNat, 0) ∈ t.lane.taken ∧
          (antB = true ↔ lane.toNat ∈ t.lane.lastB) ∧
          (antB = true → heard p.b) ∧ (antB = false → heard p.a) ∧
          (heard p.a → heard p.b →
            let q (x : RxBranch) : Int :=
              max (-128) (min 127 (x.snr - (if m.fec then 14 else 20))) - (if x.clipSync then 12 else 0)
            (q p.a < q p.b → antB = true) ∧ (q p.b < q p.a → antB = false) ∧
              (q p.a = q p.b → (antB = true ↔ lane.toNat ∈ s.lane.lastB))) ∧
          (let devs := devsInSlot p antB m.width
           let outer := (branchOf p antB).outer
           let head := receivedHeader m.fec outer devs
           let st := storedPacket m.fec outer devs
           let n := (head.getD 1 0).toNat + 16
           let dst := wordAt st.1 2
           (headerOk m.width head = false → t.lane.hdrc = drop s.lane.hdrc ∧ t.sram = s.sram ∧ t.que = s.que) ∧
           (headerOk m.width head = true → dst ≠ s.lane.ownAct → dst ≠ 0xFFFF → bit s.lane.filtAct 15 = false →
             t.lane.filtc = drop s.lane.filtc ∧ t.sram = s.sram ∧ t.que = s.que) ∧
           (headerOk m.width head = true → dst = s.lane.ownAct ∨ dst = 0xFFFF ∨ bit s.lane.filtAct 15 = true →
             st.1.length = n ∧ (st.2 = true → fcrcOk st.1 = true) ∧
             ((s.queue fq).en = false ∨ (s.queue fq).words = [] → t.lane.dropc = drop s.lane.dropc ∧ t.sram = s.sram) ∧
             (∀ w r, (s.queue fq).en = true → (s.queue fq).words = w :: r → w.poison = false →
               w.v.toNat * 128 < keyBase → fq ≠ dq → (s.queue dq).room 8 = true →
               t.rd (w.v.toNat * 128) = BitVec.ofNat 16 n ∧
               (bytesOfWords (t.rdN (w.v.toNat * 128 + 1) ((n + 1) / 2))).take n = st.1 ∧
               (∀ b, b < w.v.toNat * 128 ∨ w.v.toNat * 128 + 128 ≤ b → t.rd b = s.rd b) ∧ (t.queue fq).words = r ∧
               ∃ d, (t.queue dq).words = (s.queue dq).words ++ d ∧ d.length = 8 ∧
                 (let v (i : Nat) : Word := (d.map (·.v)).getD i 0
                  bit (v 0) 15 = st.2 ∧ bit (v 0) 12 = antB ∧ v 2 = BitVec.ofNat 16 p.syncEnd ∧
                    v 6 = s.seq.frame.setWidth 16 ∧ v 7 = w.v))))))

/-- R64, R67, R69, R71, R72, R74, R78, R201, R217: what ends an order: a verified ack, the outcome of its last try, and the
watermark when AFW does not; an ack of an order already disposed is logged. -/
def Obligations.OrderOutcomes : Prop :=
  ∀ s : State,
    (∀ desc, s.afw.ready = true → s.safe.on = false → s.isRelay = false →
      (∀ o k, s.ackTry (s.desc desc) = some (o, k) → ∃ t, exec (.ackReceived desc) s = .next t ∧
        if s.ackValid (s.desc desc) o.unit o.ticket then
          t.afw.stats.done = s.afw.stats.done + 1 ∧ t.afw.histNext = s.afw.histNext + 1 ∧
            (∀ x, x ∈ t.afw.orders.map (·.ticket) ↔ x ∈ s.afw.orders.map (·.ticket) ∧ x ≠ o.ticket)
        else t = s.takeDesc desc) ∧
      (s.ackTry (s.desc desc) = none →
        let d := s.desc desc
        let mine (x : LateTry) : Bool := x.frame == d.frame && x.slot == d.slot && x.pos == d.sub && s.ackValid d x.unit x.ticket
        (s.afw.late.any mine = false → exec (.ackReceived desc) s = .next (s.takeDesc desc)) ∧
        (s.afw.late.any mine = true → ∃ t e, exec (.ackReceived desc) s = .next t ∧ e ∈ t.afw.log ∧ e.kind = "LATERES" ∧
          e.seqNo = s.afw.logNext ∧ t.afw.orders = s.afw.orders))) ∧
    (∀ ticket o, s.afw.ready = true → s.safe.on = false → s.isRelay = false → s.orderOf ticket = some o →
      let k := (o.tries.filter (fun t => decide (t.outcomeAt ≤ s.now))).length
      (k ≤ o.next → exec (.tryOutcomePoint ticket) s = .next s) ∧
      (o.next < k → k < o.tries.length → ∃ t, exec (.tryOutcomePoint ticket) s = .next t ∧
        t.afw.orders.map (·.ticket) = s.afw.orders.map (·.ticket) ∧ t.afw.histNext = s.afw.histNext) ∧
      (o.next < k → o.tries.length ≤ k → ∃ t, exec (.tryOutcomePoint ticket) s = .next t ∧
        t.afw.histNext = s.afw.histNext + 1 ∧
        (∀ x, x ∈ t.afw.orders.map (·.ticket) ↔ x ∈ s.afw.orders.map (·.ticket) ∧ x ≠ ticket) ∧
        ((∀ y, y ∈ o.tries → y.result = some .blocked) → t.afw.stats.blocked = s.afw.stats.blocked + 1 ∧
          t.afw.stats.noack = s.afw.stats.noack) ∧
        ((∃ y, y ∈ o.tries ∧ y.result ≠ some .blocked) → t.afw.stats.noack = s.afw.stats.noack + 1 ∧
          t.afw.stats.blocked = s.afw.stats.blocked))) ∧
    (∀ ticket e, s.afw.ready = true → s.safe.on = false → s.isRelay = true →
      s.afw.relayEntries.find? (fun e => e.ticket == ticket &&
        decide (9600 * e.frame + 1200 * (e.slot + 1) ≤ s.now)) = some e →
      ∃ t r, exec (.tryOutcomePoint ticket) s = .next t ∧ e ∉ t.afw.relayEntries ∧ r ∈ t.afw.relayResults ∧
        r.ticket = ticket ∧ r.frame = e.frame ∧ r.slot = e.slot ∧
        r.outcome = e.result.getD (if e.sent then .silent else .unsent)) ∧
    (s.safe.on = false → s.asleep = false → s.sys.wmark ≠ 0xFFFFFFFF →
      s.sys.wmark.toNat ≤ s.frm ∨ (s.sys.wmark.toNat = s.frm + 1 ∧ 4800 ≤ s.seq.tick) →
        ∃ t, exec .watermarkExpiry s = .next t ∧ t.safe.on = true ∧ t.safe.cause = 2 ∧ t.afw.orders = []) ∧
    (s.sys.wmark = 0xFFFFFFFF ∨ s.frm + 1 < s.sys.wmark.toNat ∨ (s.sys.wmark.toNat = s.frm + 1 ∧ s.seq.tick < 4800) →
      exec .watermarkExpiry s = .next s)

/-- R113, R116, R117, R133, R187, R189, R191: a report is listed with the frame in which it came, changes the records of its
unit, and a repeat changes none; DELIV grows by the volume delivered, of the Rotation in which the report came, and a meter's
report gives the inflow of its segment. A relay's alarm is told by lane 1 of slot 1 (DEDUCED, log entry 31). How AFW takes a
descriptor and returns the buffer: log entry 60. What a report shorter than 17 bytes does: log entry 69. -/
def Obligations.Reports : Prop :=
  ∀ (s : State) (desc : List Word), s.memOk → s.afw.ready = true → s.safe.on = false →
    let dd := s.desc desc
    (s.openUnit dd 3 false = none → exec (.reportReceived desc) s = .next (s.takeDesc desc)) ∧
    (∀ o, s.openUnit dd 3 false = some o →
      let u := o.src.toNat
      let r := Report.ofBytes o.payload
      let alarm := s.safeIn dd.frame = true ∧ dd.slot = 1 ∧ dd.lane = 1
      ∃ t, exec (.reportReceived desc) s = .next t ∧
        (∃ x, x ∈ t.afw.seen ∧ x.unit = o.src ∧ x.rseq = r.rseq ∧ x.frame = dd.frame ∧ (x.direct = true ↔ ¬ alarm)) ∧
        (s.isRelay = true → ¬ alarm → 17 ≤ o.payload.length →
          t.afw.fwdReports = s.afw.fwdReports ++ [⟨o.src, dd.frame, o.payload⟩]) ∧
        (s.isRelay = false ∨ alarm ∨ o.payload.length < 17 → t.afw.fwdReports = s.afw.fwdReports) ∧
        ((∀ b, b ∈ s.afw.built → s.isRelay = false ∧ b.slot ≠ 1) →
          (s.isRepeat u r.rseq dd.frame = true ∨ o.payload.length < 17 → SameWords s t) ∧
          (s.nodeValid u = false → ∀ b, logArea b = false → t.rd b = s.rd b) ∧
          (s.isRepeat u r.rseq dd.frame = false → s.nodeValid u = true → 17 ≤ o.payload.length →
            t.rd32 (nodeAddr u + 12) = dd.frame ∧ t.rd32 (nodeAddr u + 16) = r.flow ∧ t.nodeW u 18 = r.pos ∧
            t.nodeW u 19 = r.lasttkt ∧ hiByte (t.nodeW u 14) = r.rseq ∧ bit (t.nodeW u 0) 8 = r.stat.getLsbD 3 ∧
            (s.isRelay = false → s.nodeKind u = 0 → s.ledFlag u 11 = true →
              let d := (r.vol + 4294967296 - s.led32 u 8) % 4294967296
              t.led32 u 8 = r.vol ∧
                (s.afw.rollFrame ≤ dd.frame →
                  t.led32 u 6 = if d ≤ 0x80000000 then min 0xFFFFFFFF (s.led32 u 6 + d) else s.led32 u 6) ∧
                (dd.frame < s.afw.rollFrame → s.afw.rolled.any (fun x => x.unit.toNat == u) = true →
                  t.led32 u 6 = s.led32 u 6)) ∧
            (∀ g, s.isRelay = false → s.nodeKind u = 1 → s.nodeSeg u = some g → r.flow ≠ 0xFFFFFF →
              t.seg32 g 4 = r.flow ∧ t.seg32 g 6 = if dd.frame = 0 then 1 else dd.frame) ∧
            (s.isRelay = true ∨ s.nodeKind u = 0 ∨ 2 ≤ s.nodeKind u → ∀ b, ¬ (nodeAddr u ≤ b ∧ b < nodeAddr u + 32) →
              ¬ (ledAddr u ≤ b ∧ b < ledAddr u + 16) → logArea b = false → t.rd b = s.rd b))))

/-- R68, R129, R211, R215, R216: bundles between coordinator and relays; a relay takes the items of a down bundle in TRACK and
HOLDOVER while its upstream beacon has SAFE = 0. Up windows are counted as log entry 50 says. -/
def Obligations.RelayTraffic : Prop :=
  ∀ s : State, s.afw.ready = true → s.safe.on = false →
    (∀ desc, s.openUnit (s.desc desc) 7 false = none → exec (.upBundleReceived desc) s = .next (s.takeDesc desc)) ∧
    (∀ desc o, s.openUnit (s.desc desc) 7 false = some o →
      (s.isRelay = false → ∃ t, exec (.upBundleReceived desc) s = .next t ∧
        (∀ m, m ∈ t.afw.upMiss → m.relay = o.src → m.count = 0) ∧
        ((s.desc desc).frame = s.frm → ∃ m, m ∈ t.afw.upMiss ∧ m.relay = o.src ∧ (s.desc desc).slot ∈ m.heard)) ∧
      (s.isRelay = true → ∃ t, exec (.upBundleReceived desc) s = .next t ∧
        (s.afw.built = [] → ∀ b, logArea b = false → t.rd b = s.rd b) ∧
        t.afw.fwdReports = s.afw.fwdReports ++ (upReports o.payload).map (fun r =>
          ⟨r.1, (s.desc desc).frame - r.2.1, r.2.2⟩) ∧
        ∀ r, r ∈ upResults o.payload → ∃ x, x ∈ t.afw.relayResults ∧ x.ticket = r.1 ∧ x.outcome = r.2.1 ∧ x.ack = r.2.2)) ∧
    (∀ desc, s.isRelay = false → exec (.downBundleReceived desc) s = .next s) ∧
    (∀ desc r o x, s.relay = some r → s.openUnit (s.desc desc) 6 true = some o → o.src = r.upstream →
      2 ≤ s.seq.rstate.toNat → s.seq.orphan = false → s.seq.safeUp = false → downItems 64 (cut8 64 o.payload) = [x] →
      (x.noff ≠ 0 → ∃ t, exec (.downBundleReceived desc) s = .next t ∧
        t.afw.forwards = s.afw.forwards ++ [⟨(s.desc desc).frame + x.noff, x.onward⟩]) ∧
      (x.noff = 0 → x.isWake = true → ∃ t w, exec (.downBundleReceived desc) s = .next t ∧
        t.afw.wakes = s.afw.wakes ++ [w] ∧ w.frame = (s.desc desc).frame + x.toff ∧ w.via = s.ownAddr) ∧
      (x.noff = 0 → x.isWake = false → s.nodeValid x.addr.toNat = true → s.hasKey x.addr.toNat = true →
        (slotsOf s.basePlan roleD)[s.nodeD x.addr.toNat]? ≠ none →
        s.afw.ackedTickets.find? (fun a => a.1 == wordAt x.head 2 && decide (s.afw.cycleNo ≤ a.2.2 + 1)) = none →
        ∃ t e, exec (.downBundleReceived desc) s = .next t ∧ t.afw.relayEntries = s.afw.relayEntries ++ [e] ∧
          e.unit = x.addr ∧ e.ticket = wordAt x.head 2 ∧ e.op = x.op ∧ e.frame = (s.desc desc).frame + x.toff ∧
          (slotsOf s.basePlan roleD)[s.nodeD x.addr.toNat]? = some e.slot)) ∧
    (∀ relay : Word, s.memOk → s.isRelay = false →
      (s.nodeValid relay.toNat = true → s.nodeKind relay.toNat = 4 → s.nodeLost relay.toNat = false →
        16 ≤ s.missNow relay.toNat →
        ∃ t, exec (.relayLost relay) s = .next t ∧ t.nodeLost relay.toNat = true ∧
          ∀ b, b ≠ nodeAddr relay.toNat → logArea b = false → t.rd b = s.rd b) ∧
      (s.missNow relay.toNat < 16 → exec (.relayLost relay) s = .next s)) ∧
    (∀ (count : Nat) (heard slots : List Nat), (∀ n, n ∈ slots → n ∉ heard) →
      missAfter heard count slots = count + slots.length) ∧
    ∀ (count n : Nat) (heard slots : List Nat), n ∈ heard → missAfter heard count (slots ++ [n]) = 0

/-- R38, R104, R425 and R460: the packets of the next frame are built into their buffers, and each slot that has one is
armed; without the broadcast key no beacon is. -/
def Obligations.DownlinkBuilding : Prop :=
  ∀ s : State,
    (s.afw.ready = false ∨ s.safe.on = true → exec .downlinkBuild s = .next s) ∧
    (s.pwr.state = .standby ∨ s.pwr.state = .sleep → exec .downlinkBuild s = .next s) ∧
    (s.afw.ready = true → s.safe.on = false → s.pwr.state = .run ∨ s.pwr.state = .doze → s.isRelay = false →
      s.seq.armBlock = false →
      let u := s.commitWakes
      let g := u.nextFrame 0
      let p := u.planFor g
      (planSlot p 0).role = roleB → (planEntry p 0).en = true →
      ∃ t, exec .downlinkBuild s = .next t ∧ t.seq.frame = s.seq.frame ∧ t.seq.cur = s.seq.cur ∧ t.gate = s.gate ∧
        t.seq.arm.getLsbD 0 = keyPresent u.bkey ∧
        (keyPresent u.bkey = true → ∃ b, b ∈ t.afw.built ∧ b.slot = 0 ∧ b.frame = g)) ∧
    (∀ n k, s.memOk → n < 8 → s.seq.armBlock = false → s.afw.firstBeacon = false →
      let g := s.nextFrame n
      let e := planEntry (s.planFor g) n
      (planSlot (s.planFor g) n).role ≠ roleW → s.packetOf g n = some k → k.bytes.length < 256 → e.buf + 129 ≤ sramEnd →
      (s.buildSlot n).rd e.buf = BitVec.ofNat 16 k.bytes.length ∧
        (bytesOfWords ((s.buildSlot n).rdN (e.buf + 1) ((k.bytes.length + 1) / 2))).take k.bytes.length = k.bytes ∧
        (s.buildSlot n).seq.arm.getLsbD n = true)

/-- R185, R193 to R197, R383 and R461: no target of a pass exceeds its member's limit, its orders carry the engine's deadline
and retries, and they are submitted when no differing plan waits; none runs in STANDBY. Where uncorrectable words leave a
record's place in a pass open, log entry 73 says what the model takes. -/
def Obligations.EnginePasses : Prop :=
  (∀ (n : Nat) (ms : List Member), (∀ m, m ∈ ms → m.lo ≤ m.hi ∧ m.e = 0) →
    ∀ x, x ∈ shareOut n ms → x.2 ≤ x.1.hi ∧ (ms.foldl (fun a m => a + m.lo) 0 < n → x.1.lo ≤ x.2)) ∧
  ∀ s : State,
    (s.afw.enable = false ∨ s.isRelay = true ∨ (s.seq.fic.toNat ≠ s.afw.startfic ∧ s.afw.passDue = false) →
      exec .apportionmentPass s = .next s) ∧
    (s.asleep = true → exec .apportionmentPass s = .next s) ∧
    (s.afw.ready = true → s.safe.on = false → s.asleep = false → s.afw.enable = true → s.isRelay = false →
      s.seq.fic.toNat = s.afw.startfic ∨ s.afw.passDue = true → s.afw.lastPass ≠ some s.seq.frame →
      (s.longKind = some .ledgerImport → ∃ t, exec .apportionmentPass s = .next t ∧
        t = { s with afw := { s.afw with passDue := true } }) ∧
      (s.longKind ≠ some .ledgerImport → ∃ t, exec .apportionmentPass s = .next t ∧
        t.afw.lastPass = some s.seq.frame ∧ t.afw.passDue = false ∧ t.afw.orders = s.afw.orders ∧
        (∀ r, r ∈ t.afw.rows → r.q ≤ r.hi) ∧
        ∀ o, o ∈ t.afw.passOrders → o.deadline = s.frm + s.afw.dlframes ∧ o.retries = s.afw.retries)) ∧
    (s.afw.ready = true → s.safe.on = false →
      (s.planWaits = true → s.afw.passOrders ≠ [] → ∃ t, exec .apportionmentPassComplete s = .next t ∧
        t.afw.passOrders = [] ∧ t.afw.heldOrders = s.afw.heldOrders ++ s.afw.passOrders ∧ t.afw.orders = s.afw.orders) ∧
      (s.afw.passOrders = [] → exec .apportionmentPassComplete s = .next s) ∧
      (s.planWaits = true → exec .heldEngineOrderSubmit s = .next s) ∧
      ∀ e, s.planWaits = false →
        (let s' : State := { s with afw := { s.afw with passOrders := [] } }
         s.afw.passOrders = [e] → s.afw.heldOrders = [] → ∃ t, exec .apportionmentPassComplete s = .next t ∧
          match s'.admission e.req with
          | .ok (a, _) => t.afw.orders.map (·.ticket) = s.afw.orders.map (·.ticket) ++ [lo16 a.ticket]
          | .error _ => t.afw.orders = s.afw.orders ∧ t.afw.stats.rejected = s.afw.stats.rejected + 1) ∧
        (let s' : State := { s with afw := { s.afw with heldOrders := [] } }
         s.afw.heldOrders = [e] → ∃ t, exec .heldEngineOrderSubmit s = .next t ∧ t.afw.heldOrders = [] ∧
          match s'.admission e.req with
          | .ok (a, _) => t.afw.orders.map (·.ticket) = s.afw.orders.map (·.ticket) ++ [lo16 a.ticket]
          | .error _ => t.afw.orders = s.afw.orders ∧ t.afw.stats.rejected = s.afw.stats.rejected + 1))

/-! ### Power -/

/-- R379 to R382 and R386: a request for a power state, ignored while one is being entered; the entry boundary with
the retained banks, which safe-hold leaves out (R426, R430); and the end of SLEEP's entry. A held edge: log entry 26. -/
def Obligations.PowerStates : Prop :=
  ∀ s : State, s.memOk →
    (s.pwr.entering = true ∨ s.pwr.state = .standby ∨ s.pwr.state = .sleep →
      exec .pwrCtlRun s = .next s ∧ exec .pwrCtlDoze s = .next s ∧ exec .pwrCtlStandby s = .next s ∧
        exec .pwrCtlSleep s = .next s) ∧
    (s.pwr.entering = false → s.pwr.state = .run ∨ s.pwr.state = .doze →
      (∃ t, exec .pwrCtlRun s = .next t ∧ t.pwr.state = .run ∧ (∀ c, t.regValue c 0x800 = 0) ∧
        ∀ c, c.isT = false → (s.core c).run = .gated → (t.core c).run = .running) ∧
      (∃ t, exec .pwrCtlDoze s = .next t ∧ t.pwr.state = .doze ∧ (∀ c, t.regValue c 0x800 = 0x4000) ∧ t.cores = s.cores) ∧
      (∃ t, exec .pwrCtlStandby s = .next t ∧ t.pwr.entering = true ∧ t.pwr.toSleep = false ∧ t.seq.arm = 0 ∧
        t.seq.armBlock = true ∧ t.pwr.state = s.pwr.state ∧ t.seq.tx = s.seq.tx) ∧
      (∃ t, exec .pwrCtlSleep s = .next t ∧ t.pwr.entering = true ∧ t.pwr.toSleep = true ∧ t.seq.arm = 0 ∧
        t.seq.armBlock = true ∧ t.seq.tx = s.seq.tx)) ∧
    (s.safe.on = true → exec .standbyEntryBoundary s = .next s) ∧
    (s.pwr.entering = true → s.pwr.past = false → s.safe.on = false →
      (s.portm.run = none → ∃ t, exec .standbyEntryBoundary s = .next t ∧ t.seq.stopped = true ∧ t.clk.lock = false ∧
        t.clk.ticksrc = true ∧ t.pwr.pll = false ∧ t.sys.wdOn = false ∧ t.seq.frame = s.seq.frame ∧
        (∀ c, (t.core c).run = if c.isT then .stopped else .held) ∧
        (∀ n, (t.queue n).words = [] ∧ (t.queue n).en = (s.queue n).en ∧ (t.queue n).base = (s.queue n).base ∧
          (t.queue n).thr = (s.queue n).thr) ∧
        (s.pwr.toSleep = false → t.pwr.state = .standby ∧ t.pwr.entering = false) ∧
        (∀ b, b < 8 → s.pwr.toSleep = true ∨ s.pwr.bankcfg.getLsbD b = false →
          BankLost t b ∧ t.pwr.bankOn.getLsbD b = false) ∧
        (∀ b, b < 8 → s.pwr.toSleep = false → s.pwr.bankcfg.getLsbD b = true → BankKept s t b)) ∧
      (s.portm.run ≠ none → ∃ t, exec .standbyEntryBoundary s = .next t ∧ t.seq.stopped = true ∧
        Domain.ports ∈ t.pwr.draining ∧ t.pwr.past = false ∧ t.sram = s.sram)) ∧
    (s.pwr.entering = false → exec .standbyEntryBoundary s = .next s) ∧
    (∀ pin, s.pwr.past = true → s.pwr.toSleep = true → s.pwr.entering = true → s.pwr.heldWake = none →
      (pin = bit s.pwr.wakecfg 13 → ∃ t, exec (.sleepEntryComplete pin) s = .next t ∧ t.pwr.state = .sleep ∧
        t.clk.xordy = false ∧ t.pins.clkoutOn = false ∧ t.sram = s.sram) ∧
      (pin ≠ bit s.pwr.wakecfg 13 → wakeEnabled s.pwr.wakecfg .wakeLevel = true →
        ∃ t, exec (.sleepEntryComplete pin) s = .next t ∧ t.pwr.state = .run ∧ t.aon.resetCause = 4)) ∧
    (∀ pin w, s.pwr.past = true → s.pwr.toSleep = true → s.pwr.entering = true → s.pwr.heldWake = some w →
      wakeEnabled s.pwr.wakecfg w = true →
      ∃ t, exec (.sleepEntryComplete pin) s = .next t ∧ t.pwr.state = .run ∧ t.aon.resetCause = 4 ∧ t.pwr.wsrc = wakeCode w) ∧
    (∀ pin, s.pwr.past = false ∨ s.pwr.toSleep = false ∨ s.pwr.entering = false →
      exec (.sleepEntryComplete pin) s = .next s)

/-- R278, R368, R384, R385, R387 to R392: banks, drains, wakes and resumed service. AFW's private areas: log entries 3 and 4.
What DOMAIN_WAKE_COMPLETE gives back to core T of the work that it had set aside is the model's choice (log entry 23), as are
the lateness that WAKE_SOURCE carries (log entry 26) and the retention set that stands again over the restart of a wake without
bank 3 (log entry 74). -/
def Obligations.WakesAndBanks : Prop :=
  ∀ s : State, s.memOk →
    (∀ v, s.portm.run = none → ∃ t, exec (.pwrBankoffWrite v) s = .next t ∧ t.cores = s.cores ∧
      (∀ b, b < 8 → bit v b = true → BankLost t b ∧ t.pwr.bankOn.getLsbD b = false) ∧
      (∀ b, b < 8 → bit v b = false → BankKept s t b ∧ t.pwr.bankOn.getLsbD b = s.pwr.bankOn.getLsbD b)) ∧
    (∀ d, d ∉ s.pwr.draining → exec (.domainDrainEnd d) s = .next s) ∧
    (∀ b : Fin 8, Domain.ledger b ∈ s.pwr.draining → ∃ t, exec (.domainDrainEnd (.ledger b)) s = .next t ∧
      BankLost t b ∧ t.pwr.bankOn.getLsbD b = false ∧ Domain.ledger b ∉ t.pwr.draining) ∧
    (∀ b : Fin 8, ∃ t, exec (.domainWakeComplete (.ledger b)) s = .next t ∧ t.pwr.bankOn.getLsbD b = true ∧
      (s.drains b = false → t.sram = s.sram) ∧ (s.drains b = true → BankLost t b) ∧ t.drains b = false ∧
      (∀ c, c.isT = false → t.core c = s.core c) ∧ (∀ x, x ∈ t.sys.waiting ↔ x ∈ s.sys.waiting ∧ x.2 ≠ b) ∧
      (s.sys.setAside.find? (fun e => e.dom == Domain.ledger b) = none → t.sys.setAside = s.sys.setAside ∧
        t.cores = s.cores) ∧
      (∀ e, s.sys.setAside.find? (fun e => e.dom == Domain.ledger b) = some e → t.sys.setAside = s.sys.setAside.erase e ∧
        (t.core .t).pc = e.pc ∧ (t.core .t).cst = e.cst ∧ (t.core .t).branch = e.branch ∧ (t.core .t).rpt = e.rpt)) ∧
    (∃ t, exec (.domainWakeComplete .txs) s = .next t ∧ t.pwr.txs = true ∧ t.sram = s.sram) ∧
    (∀ w late, wakeEnabled s.pwr.wakecfg w = false → exec (.wakeSource w late) s = .next s) ∧
    (∀ w late, wakeEnabled s.pwr.wakecfg w = true →
      (s.pwr.state = .run ∨ s.pwr.state = .doze →
        (s.pwr.past = true → s.pwr.toSleep = true → w ≠ .wakeLevel → late = false →
          exec (.wakeSource w late) s = .next { s with pwr := { s.pwr with heldWake := some w } }) ∧
        (s.pwr.past = false ∨ s.pwr.toSleep = false ∨ w = .wakeLevel ∨ late = true →
          exec (.wakeSource w late) s = .next s)) ∧
      (s.pwr.state = .standby → s.pwr.bankcfg.getLsbD 3 = true → ∃ t, exec (.wakeSource w late) s = .next t ∧
        t.pwr.state = .run ∧ t.pwr.resume = true ∧ t.pwr.wsrc = wakeCode w ∧ t.clk.lock = true ∧ t.sram = s.sram ∧
        t.seq.frame = s.seq.frame ∧ t.seq.tick = s.seq.tick ∧ t.seq.cur = none ∧ t.rxw.cen0 = s.rxw.cen0 ∧
        t.lane.cfg = s.lane.cfg ∧ t.aon.boot = s.aon.boot ∧ t.gate = s.gate ∧ t.otp = s.otp ∧
        t.sys.wdLeft = s.sys.wdTicks ∧ t.sys.wdOn = true ∧
        ∀ c, c.isT = false → s.img.cores.getLsbD c.num = true →
          (t.core c).run = .running ∧ (t.core c).pc = 0 ∧ (t.core c).cst = (if c = .a1 then 0x1000 else 0) ∧
            ∀ r, (t.core c).rg r = 0) ∧
      (s.pwr.state = .standby → s.pwr.bankcfg.getLsbD 3 = false → ∃ t, exec (.wakeSource w late) s = .next t ∧
        t.aon.resetCause = 5 ∧ t.aon.boot = s.aon.boot + 1 ∧ t.gate = s.gate ∧ t.boot.noLoad = true ∧
        t.pwr.wsrc = wakeCode w ∧ t.sys.wdTicks = s.sys.wdTicks ∧ t.img = s.img ∧ t.rxw.cen0 = s.rxw.cen0 ∧ t.lane.cfg = s.lane.cfg) ∧
      (s.pwr.state = .sleep → ∃ t, exec (.wakeSource w late) s = .next t ∧ t.aon.resetCause = 4 ∧
        t.aon.boot = s.aon.boot + 1 ∧ t.gate = s.gate ∧ t.pwr.wsrc = wakeCode w ∧ ∀ b, b < 8 → BankLost t b)) ∧
    (s.pwr.resuming = true → s.seq.cur ≠ none → s.safe.on = false → s.recovering = false →
      ∃ t, exec .resumedService s = .next t ∧ t.pwr.resuming = false ∧ t.pwr.dueRoll = 0 ∧ t.seq.cur = s.seq.cur) ∧
    (s.pwr.resuming = false ∨ s.recovering = true → exec .resumedService s = .next s)

/-! ### Calibration, start-up and safe-hold -/

/-- R147, R164, R394, R395, R397, R400 to R405 and R407: requests start or join a run, a step in a gap sets clamped targets
and moves the run on, a clip event on its antenna discards it and it runs again, a C slot measures every part but SYN with the
synthesiser on the beacon channel, and applied values follow their targets by one step a frame. A step's result comes with its
row, the steps of a C slot stand back to back, and a recovery run goes on past a discarded step (log entry 41). -/
def Obligations.CalibrationRules : Prop :=
  (∀ (c : Cal) (e : Nat), e < 84 →
    let a := elemGet c.app e
    let g := elemGet c.tgt e
    elemGet c.stepApplied.app e = if a < g then a + 1 else if g < a then a - 1 else a) ∧
  ∀ s : State,
    (∀ i p, (i, p) ∈ [(Instr.calCmdAdc, CalPart.adc), (.calCmdLna, .lna), (.calCmdTxiq, .txiq), (.calCmdLol, .lol),
        (.calCmdSyn, .syn), (.calCmdPadet, .padet)] →
      (s.safe.on = true → exec i s = .next s) ∧
      (s.safe.on = false → ∃ t r, exec i s = .next t ∧ t.cal.run = some r ∧ t.cal.app = s.cal.app ∧ t.cal.tgt = s.cal.tgt ∧
        (s.cal.run = none → r.kind = .requested ∧ r.again = [] ∧
          r.pend = if p = .adc ∨ p = .lna then [(p, false), (p, true)] else [(p, false)]) ∧
        (∀ q, s.cal.run = some q → r.kind = q.kind ∧ r.done = q.done ∧
          (∀ x, x ∈ partSteps allParts → q.waits x = true → r.waits x = true) ∧
          (q.waitsFor p = false → ∀ x, x ∈ partSteps [p] → r.waits x = true)))) ∧
    (∀ v, (20 < field v 15 11 → exec (.calCfgWrite v) s = .next s) ∧
      (field v 15 11 ≤ 20 → ∃ t, exec (.calCfgWrite v) s = .next t ∧ ∀ c, t.regValue c 0x5000 = v &&& 0xF800)) ∧
    (∀ m r p b, s.cal.redo = [] → s.cal.run = some r → r.next? = some (p, b) →
      let clip := (p = .adc ∨ p = .lna) ∧ (p, b) ∈ m.clips
      (s.stepMayRun p = false → ∃ t, exec (.calibrationStep m) s = .next t ∧ t.cal = s.cal) ∧
      (s.stepMayRun p = true →
        (clip → ∃ t, exec (.calibrationStep m) s = .next t ∧ t.cal.tgt = s.cal.tgt ∧
          t.rxw.clipA = (s.rxw.clipA || m.clips.any (!·.2)) ∧ t.rxw.clipB = (s.rxw.clipB || m.clips.any (·.2)) ∧
          (s.recovering = false → t.cal.run = s.cal.run) ∧ (s.recovering = true → t.cal.redo = [(p, b)])) ∧
        (¬ clip → ∃ t, exec (.calibrationStep m) s = .next t ∧
          (∀ e v, m.targets = [(e, v)] → e ∈ partElems p b → elemGet t.cal.tgt e = clampElem e v) ∧
          (∀ e v, m.targets = [(e, v)] → e ∉ partElems p b → t.cal.tgt = s.cal.tgt) ∧
          t.cal.figFrame = s.seq.frame ∧ t.cal.redo = [] ∧
          (∀ rest, r.pend = (p, b) :: rest → rest ++ r.again ≠ [] →
            t.cal.app = s.cal.app ∧ ∃ q, t.cal.run = some q ∧ q.pend = rest ∧ q.again = r.again ∧ q.kind = r.kind) ∧
          (∀ rest, r.pend = [] → r.again = (p, b) :: rest → rest ≠ [] →
            t.cal.app = s.cal.app ∧ ∃ q, t.cal.run = some q ∧ q.pend = [] ∧ q.again = rest ∧ q.kind = r.kind) ∧
          (r.pend ++ r.again = [(p, b)] → t.cal.run = none ∧
            (s.recovering = true → t.cal.app = t.cal.tgt ∧ (r.kind = .recovery → t.cal.tref = m.temp))) ∧
          (p = .syn → s.tablesOk →
            (∀ k, k < 512 → s.syn.on = false ∨ s.syn.idx.getLsbD 8 ≠ decide (256 ≤ k) → t.syn.valid k = false) ∧
            (s.syn.on = true → if s.syn.idx.getLsbD 8 then t.syn.inval1 = true else t.syn.inval0 = true))))) ∧
    (∀ m p b rest, s.cal.redo = (p, b) :: rest → s.recovering = false → s.stepMayRun p = true →
      ∃ t, exec (.calibrationStep m) s = .next t ∧
        t.cal.redo = if (p = .adc ∨ p = .lna) ∧ (p, b) ∈ m.clips then s.cal.redo else rest) ∧
    (∀ m, s.seq.stopped = true ∨ s.safe.on = true ∨ s.curRole ≠ roleC ∨ s.slotWorked = true →
      exec (.calibrationSlot m) s = .next s) ∧
    (∀ m, s.seq.stopped = false → s.safe.on = false → s.curRole = roleC → s.slotWorked = false → m.clips = [] →
      ∃ t, exec (.calibrationSlot m) s = .next t ∧
      t.cal.qspur.toInt = max m.adcA.spur.toInt m.adcB.spur.toInt ∧
      t.cal.qskew.toNat = max m.adcA.skew.toNat m.adcB.skew.toNat ∧ t.cal.qimg = m.img ∧ t.cal.qlol = m.lol ∧
      t.cal.redo = [] ∧ t.cal.figFrame = s.seq.frame ∧
      t.cal.padetNew.getD t.cal.padet = (List.range 8).map (fun k => m.padet.getD k (s.cal.padet.getD k 0)) ∧
      (s.beaconTune = none → t.syn = s.syn) ∧
      (∀ x, s.beaconTune = some x → t.syn.on = true ∧ t.syn.lock = true ∧ t.syn.idx = x.1 ∧ t.syn.carrier = x.2))

/-- R202, R280 to R284, R403, R410 to R422: resets, the image chosen and loaded, the power-up calibration and !READY.
Header checks and load framing as log entry 48 reads them. -/
def Obligations.BootSequence : Prop :=
  ∀ s : State,
    (∀ x, ∃ t, exec (.powerOnReset true x) s = .next t ∧ t.aon.boot = 1 ∧ t.aon.resetCause = 0 ∧ t.gate.filled = true ∧
      t.gate.used = [] ∧ t.seq.frame = 0 ∧ t.otp = s.otp ∧ t.afw.ready = false ∧
      t.boot.stage = (if x.bootsel then .hostLoad else .image) ∧ t.clk.tcxo = x.xoGround ∧ ∀ c, c.isT = false → (t.core c).run = .held) ∧
    (∀ x, ∃ t, exec (.powerOnReset false x) s = .next t ∧ t.boot.stage = (if x.bootsel then .hostLoad else .image) ∧
      t.aon.boot = s.aon.boot + 1 ∧ t.aon.resetCause = 0 ∧ t.gate = s.gate ∧ t.otp = s.otp ∧ t.afw.ready = false ∧
      (∀ r, s.aon.frec = some r → t.seq.frame = r.frame + 1 ∧ t.seq.tick = 0) ∧ ∀ e, e < 65536 → t.hasKey e = false) ∧
    (∀ ns x k, (10000 ≤ ns → ∃ t, exec (.nreset ns x k) s = .next t ∧ t.aon.resetCause = 1 ∧
        t.boot.stage = (if x.bootsel then .hostLoad else .image) ∧
        t.aon.boot = s.aon.boot + 1 ∧ t.gate = s.gate ∧ t.otp = s.otp ∧ ∀ c, c.isT = false → (t.core c).run = .held) ∧
      (2000 ≤ ns → ns < 10000 → ∃ t, exec (.nreset ns x k) s = .next t ∧ t.otp = s.otp ∧ t.gate = s.gate ∧
        (t = { s with free := s.free + 1 } ∨ (t.aon.resetCause = 1 ∧ t.aon.boot = s.aon.boot + 1))) ∧
      (ns < 2000 → exec (.nreset ns x k) s = .next s)) ∧
    (∀ h0 h1 ws, s.boot.stage = .image → s.safe.on = false → s.boot.noLoad = false →
      (s.bootSlot h0 h1 = none → ∃ t, exec (.imageAccept h0 h1 ws) s = .next t ∧ t.safe.on = true ∧ t.safe.cause = 6) ∧
      (∀ b, s.bootSlot h0 h1 = some b → ∃ t, exec (.imageAccept h0 h1 ws) s = .next t ∧
        if s.imageOk ws then
          t.boot.stage = .released ∧ t.img.valid = true ∧ t.img.svn = imgSvn ws ∧ t.sys.wdTicks = imgWdTicks ws ∧
            t.sys.wdLeft = imgWdTicks ws ∧ t.sys.wdOn = true ∧
            ∀ c, c.isT = false → (t.core c).run = (if (imgCores ws).getLsbD c.num then .running else .held) ∧
              ((imgCores ws).getLsbD c.num = true → (t.core c).pc = 0 ∧ (t.core c).cst = 0)
        else t.img = s.img ∧ (∀ c, c.isT = false → (t.core c).pram = []) ∧
          (if b then t.boot.tried1 else t.boot.tried0) = true)) ∧
    (∀ h0 h1 ws, s.boot.stage = .image → s.safe.on = false → s.boot.noLoad = true →
      ∃ t, exec (.imageAccept h0 h1 ws) s = .next t ∧ t.boot.stage = .released ∧ t.img = s.img ∧ t.sys.wdOn = true ∧
        t.pwr.resume = true ∧ t.sys.wdLeft = s.sys.wdTicks ∧
        ∀ c, c.isT = false → (t.core c).run = (if s.img.cores.getLsbD c.num then .running else .held)) ∧
    (∀ m, s.boot.stage = .released → s.safe.on = false → ∃ t, exec (.powerUpCalibration m) s = .next t ∧
      t.boot.stage = .calibrated ∧ t.cal.app = t.cal.tgt ∧ t.cal.tref = m.temp ∧
      (m.clips = [] → t.cal.qspur.toInt = max m.adcA.spur.toInt m.adcB.spur.toInt)) ∧
    (s.boot.stage = .calibrated → s.safe.on = false → ∃ t, exec .ready s = .next t ∧ t.afw.ready = true ∧
      t.boot.stage = .up ∧ t.afw.orders = [] ∧
      (∀ p, (t.lines p).out.map (·.cls) = [some .ready] ∧ (t.lines p).subs = [.disp, .alarm] ∧
        (t.lines p).gen = (p != .a)) ∧
      (s.isRelay = true → t.seq.rstate = 1) ∧
      (s.memOk → ∀ a, a < 0x360000 ∨ (0x380000 ≤ a ∧ a < 0x388000) → t.rd a = 0)) ∧
    (s.boot.stage ≠ .calibrated → exec .ready s = .next s) ∧
    (∀ bytes, s.boot.stage = .hostLoad → s.safe.on = false → s.boot.rej = false →
      let off := beNat ((bytes.drop 1).take 3)
      let d := bytes.drop 4
      bytes.getD 0 0 = 0x4C → bytes.length ≤ 4096 → 6 ≤ bytes.length → d.length % 2 = 0 →
      (off = 0 ∨ (off = s.boot.buf.length ∧ off % 2 = 0) → ∃ t, exec (.loadFrame bytes false) s = .next t ∧
        t.boot.buf = (if off = 0 then d else s.boot.buf ++ d) ∧ t.boot.seqBit = !s.boot.seqBit ∧
        t.ports.lastTx.length = bytes.length) ∧
      (off ≠ 0 → off ≠ s.boot.buf.length → ∃ t, exec (.loadFrame bytes false) s = .next t ∧
        t.boot.buf = s.boot.buf ∧ t.boot.seqBit = s.boot.seqBit)) ∧
    (∀ bytes, s.loading = true → s.boot.stage ≠ .hostLoad → ∃ t, exec (.loadFrame bytes false) s = .next t ∧
      t.ports.lastTx = s.boot.loadStatus :: List.replicate (bytes.length - 1) 0xFF ∧ t.boot.buf = s.boot.buf ∧
      t.img = s.img ∧ exec (.goFrame bytes false) s = .next t) ∧
    (∀ bytes, s.boot.stage = .hostLoad → s.safe.on = false → bytes.length = 4 → bytes.getD 0 0 = 0x47 →
      let ws := flashWords s.boot.buf
      ∃ t, exec (.goFrame bytes false) s = .next t ∧
        if beNat (bytes.drop 1) = imgLength ws ∧ s.boot.buf.length = imgLength ws ∧ s.imageOk ws = true then
          t.boot.stage = .released ∧ t.img.valid = true ∧ t.img.svn = imgSvn ws
        else t.boot.rej = true ∧ t.boot.buf = [] ∧ t.boot.stage = .hostLoad ∧ t.img = s.img)

/-- R75, R76, R133, R277, R424 to R426, R429 and R430: entry to safe-hold, its lines, and an alarm heard in it. -/
def Obligations.SafeHold : Prop :=
  ∀ (s : State),
    (∀ c, s.safe.on = true → s.enterSafe c = s) ∧
    (∀ c, s.safe.on = false → (s.enterSafe c).safe.on = true ∧ (s.enterSafe c).safe.cause = c ∧
      (s.enterSafe c).aon.safeCause = c ∧ (s.enterSafe c).safe.frame = s.seq.frame ∧ (s.enterSafe c).afw.orders = [] ∧
      (s.enterSafe c).cal.run = none ∧
      (s.enterSafe c).pwr.state = .run ∧ (s.enterSafe c).pins.safe = true ∧ (s.enterSafe c).sys.wdOn = false ∧
      (s.enterSafe c).sram = s.sram ∧ (s.enterSafe c).otp = s.otp ∧
      (∀ d, d.isT = false → ((s.enterSafe c).core d).run = .held) ∧
      (∃ p, (s.enterSafe c).seq.pend = some p ∧ p.plan = s.safePlan ∧ p.validated = true) ∧
      ((s.enterSafe c).seq.arm = 0 ∨ (s.enterSafe c).seq.arm = 1)) ∧
    (∀ cut, s.safe.on = true → s.safe.reported = false → ∃ t, exec (.safeHoldReport cut) s = .next t ∧
      t.safe.reported = true ∧ t.safe.cause = s.safe.cause ∧
      (∀ p, ∃ o, (t.lines p).out.getLast? = some o ∧ o.cls = some .safe) ∧
      ∀ p o r, p ∈ cut → s.safe.beforeReady = false → (s.lines p).out = r ++ [o] → 0 < o.sent →
        o.sent ≤ o.text.length → (s.lines p).subs = [] →
        ∃ q, (t.lines p).out = r ++ [q] ++ (t.lines p).out.drop (r.length + 1) ∧
          q.text = String.ofList (o.text.toList.take o.sent) ++ "\r\n" ∧ q.sent = o.sent) ∧
    (∀ cut, s.safe.on = false ∨ s.safe.reported = true → exec (.safeHoldReport cut) s = .next s) ∧
    (s.safe.on = false → ∀ b, exec (.safeAlarmReceived b) s = .next s) ∧
    (∀ b, s.safe.on = true → s.seq.slot = 1 → headerOk 2 b = true → fcrcOk b = true →
      let h := Header.ofBytes b
      let u := h.src.toNat
      h.type = 3 → h.key = false → h.frm = lo16 s.frm → u ≠ 0 → u ≠ 0xFFFF → b.length = h.len + 16 → 17 ≤ h.len →
      keyPresent (s.keyBytes u) = true →
      ∃ t, exec (.safeAlarmReceived b) s = .next t ∧ t.sram = s.sram ∧
        match ccmOpenBytes (s.keyBytes u) (nonceBytes 3 s.district h.src h.dst s.frm 1 0 0 0) (b.take 8)
          ((b.drop 10).take h.len) ((b.drop (10 + h.len)).take 4) with
        | none => t.afw = s.afw
        | some pl => (pl.getD 0 0).toNat / 16 = 1 → ∃ x, x ∈ t.afw.alarms ∧ x.unit = h.src ∧ x.rseq = pl.getD 1 0 ∧
            x.frame = s.frm)

/-! ### Mustix commands -/

/-- R66, R186, R188, R209, R315, R317, R318: node records by command and by import. A key that is given takes its
value, every other field stands, and an import that fails writes nothing. The words read pass the ECC logic (R367). Where a
block from flash is copied to is log entry 7. A relay descriptor comes as an operand (log entry 42). The texts of replies and
the order of errors are the model's readings where chapter 14 leaves them open (log entries 44 and 46). -/
def Obligations.UnitCommands : Prop :=
  ∀ s : State, s.idleMx → s.memOk →
    (∀ (u : Nat) (a : NodeArgs), unitOk u = true →
      let s' := s.readsUnit 0 u
      let w := s.nodeBase u
      let g (i : Nat) : Word := w.getD i 0
      nodeArgsOk a w s.cycleLen = true → descOk a (nodeApply a w) = true →
      (s.recordHeld u (s.nodeWords u) (nodeApply a w) = true → Completes (.nodeSet u a) s []
        ("-ERR ORDERS_OUTSTANDING" ++ kvN "out" s.afw.orders.length) (· = s')) ∧
      (s.recordHeld u (s.nodeWords u) (nodeApply a w) = false → s.nodeValid u = false → s.nodesFull 1 = true →
        Completes (.nodeSet u a) s [] "-ERR TABLE_FULL" (· = s')) ∧
      (s.recordHeld u (s.nodeWords u) (nodeApply a w) = false → s.nodeValid u = true ∨ s.nodesFull 1 = false →
        Completes (.nodeSet u a) s [] ("+OK" ++ kvH "unit" 4 u ++ kvN "valid" 1) (fun v =>
          OnlySram { s' with afw := { s.afw with relayDesc := match a.desc with
              | some d => s.afw.relayDesc.filter (fun x => x.relay != lo16 u) ++ [⟨lo16 u, d.beacon, d.dch, d.wake⟩]
              | none => s.afw.relayDesc } } v (fun b => inWords (nodeAddr u) 0 12 b ∨ listWord b) ∧ v.nodeValid u = true ∧
          v.nodeKind u = (a.kind.map kindCode).getD (field (g 0) 14 12) ∧
          (∀ p, a.p = some p → v.nodeP u = p) ∧ (a.p = none → field (v.nodeW u 0) 7 4 = field (g 0) 7 4) ∧
          (∀ x, a.ph = some x → x < 512 → v.nodePhase u = x) ∧ (a.ph = none → v.nodePhase u = field (g 1) 8 0) ∧
          v.nodeD u = a.d.getD (field (g 1) 15 13) ∧ field (v.nodeW u 0) 1 0 = a.uidx.getD (field (g 0) 1 0) ∧
          (∀ x, a.rho = some x → x < 4096 → field (v.nodeW u 2) 11 0 = x) ∧ (a.rho = none → v.nodeW u 2 = g 2) ∧
          v.relay1 u = a.relay1.getD (g 3).toNat ∧ v.relay2 u = a.relay2.getD (g 4).toNat ∧
          field (v.nodeW u 0) 3 2 = (if v.relay1 u = 0 then 0 else if v.relay2 u = 0 then 1 else 2) ∧
          field (v.nodeW u 0) 9 9 = a.wake.getD (field (g 0) 9 9) ∧
          field (v.nodeW u 5) 11 0 = a.wcode.getD (field (g 5) 11 0) ∧
          (∀ x, a.seg = some x → v.nodeSeg u = some x) ∧ (a.seg = none → v.nodeW u 6 = g 6) ∧
          (∀ x, a.groups = some x → groupsOf (v.nodeWords u) = x) ∧ (a.groups = none → groupsOf (v.nodeWords u) = groupsOf w) ∧
          (∀ x, a.pinit = some x → (hiByte (v.nodeW u 11)).toInt = x) ∧ (a.pinit = none → v.nodeW u 11 = g 11) ∧
          v.nodeHasPat u = (bit (g 0) 11 || (a.p.isSome && a.ph.isSome && a.d.isSome)) ∧
          v.nodeLost u = bit (g 0) 10))) ∧
    (∀ u, unitOk u = true → s.nodeValid u = false → Completes (.nodeGet u) s [] "-ERR UNKNOWN_UNIT"
      (· = s.readsUnit 0 u)) ∧
    (∀ u, unitOk u = true → s.nodeValid u = true → Completes (.nodeGet u) s [] ("+OK" ++ nodePairs s u)
      (· = s.readsUnit 0 u)) ∧
    (∀ u, unitOk u = true → s.unitBusy u = true → Completes (.nodeDel u) s []
      ("-ERR ORDERS_OUTSTANDING" ++ kvN "out" s.afw.orders.length) (· = s.readsUnit 0 u)) ∧
    (∀ u, unitOk u = true → s.afw.orders = [] → Completes (.nodeDel u) s [] ("+OK" ++ kvH "unit" 4 u ++ kvN "valid" 0)
      (fun v => OnlySram { s.readsUnit 0 u with afw := { s.afw with relayDesc := s.afw.relayDesc.filter (fun x => x.relay != lo16 u) } } v
          (fun b => b = nodeAddr u ∨ listWord b) ∧ v.nodeValid u = false ∧
        ∀ i, i < 15 → bit (v.nodeW u 0) i = bit (s.nodeW u 0) i)) ∧
    (∀ src, srcOk src = true →
      let at_ := (s.importBlock src).1
      let b := (s.importBlock src).2
      (∀ x, src = .sram x → at_ = x ∧ b = s) ∧
      (∀ sel fa ws, src = .flash sel fa ws → at_ = importCopy ∧
        let n := 3 + (ws.getD 1 0).toNat * entrySize (ws.getD 0 0)
        OnlySram s b (inWords importCopy 0 n) ∧ ∀ i, i < n → b.rd (importCopy + i) = ws.getD i 0) ∧
      (∀ c, b.blockEntries (isFlash src) at_ [0x1D01] = .error c →
        Begins (.nodeImport src) s .nodeImport (some ("-ERR " ++ c)) (· = b)) ∧
      (∀ m es, b.blockEntries (isFlash src) at_ [0x1D01] = .ok (m, es) →
        (∀ i c, firstFault (b.nodeBlockFault es) es = some (i, c) →
          (∃ e, es[i]? = some e ∧ b.nodeBlockFault es i e = some c) ∧
          (∀ k e, k < i → es[k]? = some e → b.nodeBlockFault es k e = none) ∧
          Begins (.nodeImport src) s .nodeImport (some ("-ERR " ++ c ++ kvN "entry" i)) (· = b)) ∧
        (firstFault (b.nodeBlockFault es) es = none → (es.map (fun e => e.getD 0 0)).Nodup →
          Begins (.nodeImport src) s .nodeImport (some ("+OK" ++ kvN "count" es.length)) (fun v =>
            OnlySram b v (fun x => (∃ e ∈ es, inWords (nodeAddr (e.getD 0 0).toNat) 0 12 x) ∨ listWord x) ∧
            ∀ e ∈ es, ∀ i, i < 12 → v.nodeW (e.getD 0 0).toNat i = e.getD (i + 1) 0))))

/-- R188, R190, R192, R199, R316 to R318: segment and ledger records, shares and the engine's settings. The words read pass
the ECC logic (R367). The texts of replies, and zeros in a new segment record, are the model's readings (log entries 44, 46 and
57). That SHARE SET answers INTERNAL, with the log record of R462, where the list words are damaged is the model's choice of an
inconsistency of R300 (log entry 70). -/
def Obligations.LedgerCommands : Prop :=
  ∀ s : State, s.idleMx → s.isRelay = false → s.memOk →
    (∀ (g : Nat) (a : SegArgs), g ≤ 4095 → segArgsOk a = true →
      let old (i : Nat) : Word := if s.segValid g then s.segW g i else 0
      let old32 (i : Nat) : Nat := pair32 (old i) (old (i + 1))
      let head := a.head.getD (field (old 0) 14 14)
      let par := a.parent.getD (field (old 0) 11 0)
      (head = 0 → par = g ∨ s.leadsTo g 4096 par = true → Completes (.segSet g a) s [] "-ERR BAD_ARG" (· = s.readsSeg 0 g)) ∧
      (head = 1 ∨ (par ≠ g ∧ s.leadsTo g 4096 par = false) →
        Completes (.segSet g a) s [] ("+OK" ++ kvN "seg" g ++ kvN "valid" 1) (fun v =>
          OnlySram (s.readsSeg 0 g) v (fun b => inWords (segAddr g) 0 32 b ∨ listWord b) ∧ v.segValid g = true ∧
          field (v.segW g 0) 14 14 = head ∧ v.segParent g = par ∧
          field (v.segW g 0) 13 13 = a.usemeas.getD (field (old 0) 13 13) ∧
          (v.segW g 1).toNat = a.share.getD (old 1).toNat ∧ (v.segW g 2).toNat = a.loss.getD (old 2).toNat ∧
          (v.segW g 3).toNat = a.maxage.getD (old 3).toNat ∧ v.seg32 g 4 = old32 4 ∧ v.seg32 g 6 = old32 6 ∧
          v.seg32 g 8 = a.qmin.getD (old32 8) ∧ v.seg32 g 10 = a.qmax.getD (old32 10) ∧
          (v.segW g 12).toNat = a.meter.getD (old 12).toNat))) ∧
    (∀ g, g ≤ 4095 → s.segValid g = true →
      (∃ rest, Completes (.segGet g) s [] ("+OK" ++ (kvB "head" (s.segHead g) ++ kvN "parent" (s.segParent g) ++
        kvN "share" (s.segW g 1).toNat ++ kvN "loss" (s.segW g 2).toNat ++ rest)) (· = s.readsSeg 0 g)) ∧
      (∃ conts, Completes (.shareShow g) s conts ("+OK" ++ ((match s.afw.lastPass with
        | some f => kvN "frame" f.toNat | none => kv "frame" "NONE") ++ kvN "n" conts.length)) (· = s)) ∧
      (s.childrenOf g = [] → s.outletsOf g = [] → Completes (.segDel g) s [] ("+OK" ++ (kvN "seg" g ++ kvN "valid" 0))
        (fun v => OnlySram (s.readsSeg 0 g) v (fun b => b = segAddr g ∨ listWord b) ∧ v.segValid g = false)) ∧
      (s.childrenOf g ≠ [] ∨ s.outletsOf g ≠ [] → Completes (.segDel g) s [] "-ERR BAD_ARG" (· = s.readsSeg 0 g)) ∧
      (∀ shares : List Nat, shares.length = (s.outletsOf g).length + (s.childrenOf g).length →
        (∀ x ∈ shares, x ≤ 0xFFFF) →
        (s.listOk g = false → Completes (.shareSet g shares) s [] "-ERR INTERNAL"
          (· = (s.readsSeg 0 g).logEvent "INTERNAL" (kv "line" s.curLine.text))) ∧
        (s.listOk g = true → Completes (.shareSet g shares) s [] ("+OK" ++ (kvN "seg" g ++ kvN "n" shares.length)) (fun v =>
          (∀ (i u : Nat), (s.outletsOf g)[i]? = some u → (v.ledW u 2).toNat = shares.getD i 0) ∧
          (∀ (i h : Nat), (s.childrenOf g)[i]? = some h →
            (v.segW h 1).toNat = shares.getD ((s.outletsOf g).length + i) 0) ∧
          OnlySram (s.readsSeg 0 g) v (fun b => (0x200000 ≤ b ∧ b < 0x300000 ∧ b % 16 = 2) ∨
            (0x300000 ≤ b ∧ b < 0x320000 ∧ b % 32 = 1)))))) ∧
    (∀ (u : Nat) (a : LedgerArgs), unitOk u = true → s.nodeValid u = true → s.nodeKind u = 0 → ledgerArgsOk a = true →
      Completes (.ledgerSet u a) s [] ("+OK" ++ kvH "unit" 4 u) (fun v =>
        OnlySram (s.readsUnit 0 u) v (inWords (ledAddr u) 1 15) ∧
        v.ledFlag u 15 = (a.active.map (· == 1)).getD (s.ledFlag u 15) ∧
        v.ledFlag u 14 = (a.held.map (· == 1)).getD (s.ledFlag u 14) ∧
        v.ledFlag u 10 = (a.carry.map (· == 1)).getD (s.ledFlag u 10) ∧
        (∀ b ∈ [13, 12, 11], v.ledFlag u b = s.ledFlag u b) ∧
        (v.ledW u 2).toNat = a.share.getD (s.ledW u 2).toNat ∧ (v.ledW u 3).toNat = a.hyst.getD (s.ledW u 3).toNat ∧
        v.led32 u 4 = a.ent.getD (s.led32 u 4) ∧ v.led32 u 6 = a.deliv.getD (s.led32 u 6) ∧ v.led32 u 8 = s.led32 u 8 ∧
        v.led32 u 10 = a.entbase.getD (s.led32 u 10) ∧ v.ledQmin u = a.qmin.getD (s.ledQmin u) ∧
        v.ledQmax u = a.qmax.getD (s.ledQmax u))) ∧
    (∀ u, unitOk u = true → s.nodeValid u = true →
      ∃ rest, Completes (.ledgerGet u) s [] ("+OK" ++ (kvN "target" (s.ledTarget u) ++ kvB "active" (s.ledFlag u 15) ++
        kvB "held" (s.ledFlag u 14) ++ rest)) (· = s.readsUnit 0 u)) ∧
    (∀ a : EngineArgs, optOk a.enable (· ≤ 1) = true → optOk a.startfic (fun v => decide (1 ≤ v ∧ v ≤ 59)) = true →
      optOk a.dlframes (fun v => decide (60 ≤ v ∧ v ≤ 3600)) = true → optOk a.retries (· ≤ 7) = true →
      ∃ fin, Completes (.ledgerEngine a) s [] ("+OK" ++ fin) (fun v => v = { s with afw := { s.afw with
        enable := (a.enable.map (· == 1)).getD s.afw.enable, startfic := a.startfic.getD s.afw.startfic,
        dlframes := a.dlframes.getD s.afw.dlframes, retries := a.retries.getD s.afw.retries } })) ∧
    (∀ src, srcOk src = true →
      let at_ := (s.importBlock src).1
      let b := (s.importBlock src).2
      let found := b.blockEntries (isFlash src) at_ [0x1D02, 0x1D03]
      (∀ c, found = .error c → Begins (.ledgerImport src) s .ledgerImport (some ("-ERR " ++ c)) (· = b)) ∧
      (∀ es, found = .ok (0x1D02, es) →
        (∀ i c, firstFault (fun _ e => ledgerEntryFault e) es = some (i, c) →
          Begins (.ledgerImport src) s .ledgerImport (some ("-ERR " ++ c ++ kvN "entry" i)) (· = b)) ∧
        (firstFault (fun _ e => ledgerEntryFault e) es = none → (es.map (fun e => e.getD 0 0)).Nodup →
          Begins (.ledgerImport src) s .ledgerImport (some ("+OK" ++ kv "kind" "LEDGER" ++ kvN "count" es.length)) (fun v =>
            ∀ e ∈ es, ∀ i, i < 15 → v.ledW (e.getD 0 0).toNat i =
              if i = 1 then setBit (e.getD 2 0) 13 (b.ledFlag (e.getD 0 0).toNat 13) else e.getD (i + 1) 0))) ∧
      (∀ es, found = .ok (0x1D03, es) →
        (∀ i c, firstFault (fun _ e => b.segEntryFault es e) es = some (i, c) →
          Begins (.ledgerImport src) s .ledgerImport (some ("-ERR " ++ c ++ kvN "entry" i)) (· = b)) ∧
        (firstFault (fun _ e => b.segEntryFault es e) es = none → (es.map (fun e => e.getD 0 0)).Nodup →
          Begins (.ledgerImport src) s .ledgerImport (some ("+OK" ++ kv "kind" "SEG" ++ kvN "count" es.length)) (fun v =>
            ∀ e ∈ es, ∀ i, i < 13 → v.segW (e.getD 0 0).toNat i = e.getD (i + 1) 0))))

/-- R56 to R64: what admission holds for an accepted order. Every member has all its tries, in frames that rise, in
which it listens, committed no sooner than the lead after now and before the horizon's end; the last outcome of each
stands a frame before the deadline; the tickets are free ones in sequence; nothing is written outside the table of
outstanding orders, the reservation map and the bodies of OPAQUE orders (log entry 7). -/
def Obligations.AdmissionHolds : Prop :=
  ∀ (s t : State) (q : OrderReq) (a : Admitted), s.memOk → s.admission q = .ok (a, t) →
    q.members ≠ [] ∧ s.isRelay = false ∧ a.tries.length = q.members.length ∧
    (∀ (i u : Nat) (ts : List Try), q.members[i]? = some u → a.tries[i]? = some ts →
      s.nodeValid u = true ∧ s.nodeHasPat u = true ∧ ts.length = q.retries + 1 ∧
      ts.Pairwise (fun x y => x.frame < y.frame) ∧
      (∀ x ∈ ts, s.listens u x.frame = true ∧ s.now + (if q.grp.isSome then 9600 else 1200) ≤ x.commit ∧
        x.frame < s.frm + s.seq.cycLen.toNat ∧ x.result = none ∧ x.txr = lo16 ((s.path u).getLastD 0)) ∧
      (∀ x, ts.getLast? = some x → x.outcomeAt + 9600 ≤ 9600 * q.deadline)) ∧
    a.ticket + q.members.length ≤ 0x10000 ∧
    (∀ i, i < q.members.length → a.ticket + i ∉ s.afw.orders.map (fun o => o.ticket.toNat)) ∧
    t.afw.orders.map (·.ticket) = s.afw.orders.map (·.ticket) ++ (List.range q.members.length).map (fun i => lo16 (a.ticket + i)) ∧
    t.afw.orders.map (·.unit) = s.afw.orders.map (·.unit) ++ q.members.map lo16 ∧
    t.afw.stats.accepted = s.afw.stats.accepted + q.members.length ∧
    (∀ b, b < 0x320000 ∨ (0x380000 ≤ b ∧ b < 0x680000) → t.rd b = s.rd b) ∧
    (q.body.length ≤ 120 → ∀ b, 0x780000 ≤ b → t.rd b = s.rd b)

/-- R63, R65, R73, R111, R112, R219, R314, R319 to R322, R330: orders, their cancelling, and wake bursts. The texts of
replies and the placing of bursts are the model's readings (log entries 44, 46 and 49). A relay without a descriptor
is served over the coordinator's wake channel by the model's choice (log entry 22), and what a node read does to the
banks and the ECC registers is the model's reading of R367 (log entry 60). -/
def Obligations.OrderCommands : Prop :=
  ∀ s : State, s.coordMx →
    (∀ i q b, (∃ tgt act dl r f, i = Instr.order tgt act dl r ∧ b = s ∧ s.deadlineFrame dl = some f ∧ s.frm < f ∧ r ≤ 7 ∧
          targetOk tgt = true ∧ actionOk act = true ∧ q = s.orderReq tgt act f r) ∨
        (∃ u dl r f a, i = .nodeConfig u dl r a ∧ b = s.readsUnit 0 u ∧ b.deadlineFrame dl = some f ∧ b.frm < f ∧ r ≤ 7 ∧
          unitOk u = true ∧ a.p.isSome = true ∧ a.ph.isSome = true ∧ a.d.isSome = true ∧ a.kind = none ∧ a.seg = none ∧
          a.groups = none ∧ a.desc = none ∧ nodeArgsOk a (b.nodeBase u) b.cycleLen = true ∧ b.unitBusy u = false ∧
          (b.afw.orders = [] ∨ relayKey (b.nodeBase u) = relayKey (nodeApply a (b.nodeBase u))) ∧
          q = { members := [u], grp := none, act := 7, param := 0, port := 0xF0, body := netcfgBody (nodeApply a (b.nodeBase u)),
                deadline := f, retries := r, engine := false, keySend := false,
                netcfg := some ((nodeApply a (b.nodeBase u)).take 6 ++ [(nodeApply a (b.nodeBase u)).getD 11 0]) }) ∨
        (∃ u dl r f, i = .keySend u dl r ∧ b = s ∧ s.deadlineFrame dl = some f ∧ s.frm < f ∧ r ≤ 7 ∧ unitOk u = true ∧
          s.hasKey (bslotEntry (!s.aon.bslot)) = true ∧
          q = { members := [u], grp := none, act := 7, param := 0, port := 0xF1, body := List.replicate 16 0,
                deadline := f, retries := r, engine := false, netcfg := none, keySend := true }) →
      (s.tx.regLock = false → Completes i s [] "-ERR WRONG_STATE region unlocked" (· = b)) ∧
      (s.tx.regLock = true →
        (∀ r, b.admission q = .error r → Completes i s [] (rejLine r) (fun u =>
          u = { b with afw := { b.afw with stats := { b.afw.stats with rejected := b.afw.stats.rejected + 1 } } })) ∧
        (∀ a t, b.admission q = .ok (a, t) → ∃ rest, Completes i s [] ("+OK" ++ (kvH "ticket" 4 a.ticket ++ rest))
          (fun u => u.afw.orders.map (fun o => (o.ticket, o.unit, o.act)) = t.afw.orders.map (fun o => (o.ticket, o.unit, o.act)) ∧
            u.aon = t.aon ∧ u.otp = s.otp ∧ u.gate = s.gate)))) ∧
    (∀ dl u r, s.tx.regLock = true → s.afw.utc = none → unitOk u = true → r ≤ 7 →
      Completes (.order (.unit u) .hold (.utc dl) r) s [] "-ERR BAD_ARG no utc" (· = s)) ∧
    (∀ k, 1 ≤ k → k ≤ 0xFFFF →
      (s.orderOf (lo16 k) = none → s.history (lo16 k) = none →
        Completes (.cancel k) s [] ("-ERR " ++ ("NO_TICKET" ++ kvH "ticket" 4 (lo16 k).toNat)) (· = s)) ∧
      (∀ o, s.orderOf (lo16 k) = some o →
        let t := s.passOutcomes o
        ∀ p x n, t.orderOf (lo16 k) = some p → t.nextTry p = some (x, n) →
          (x.commit ≤ s.now → ∃ rest, Completes (.cancel k) s [] ("-ERR TOO_LATE" ++ rest) (· = t)) ∧
          (s.now < x.commit → Completes (.cancel k) s [] ("+OK" ++ (kvH "ticket" 4 p.ticket.toNat ++ kv "disp" "CANCELLED"))
            (fun u => ∀ y, y ∈ u.afw.orders.map (·.ticket) ↔ y ∈ t.afw.orders.map (·.ticket) ∧ y ≠ lo16 k)))) ∧
    (∀ (a : WakeArgs) (via : Nat) (wcode : BitVec 12), s.tx.regLock = true → s.wakeTarget a = .ok (via, wcode) →
      optOk a.after (fun f => decide (s.frm < f)) = true → 2 ≤ a.slots.getD 4 →
      let n := a.slots.getD 4
      let start := max (s.frm + 2) (a.after.getD 0)
      (via = 0 → n ≤ 16 → s.afw.current.wch ≠ none →
        (s.ownBurst wcode n start = none → Completes (.wake a) s [] "-ERR NOFIT efd=none" (· = s)) ∧
        (∀ w t, s.ownBurst wcode n start = some (w, t) →
          Completes (.wake a) s [] ("+OK" ++ (kvF "frame" w.frame ++ kvN "slot" w.first ++ kvN "slots" n ++ kvH "via" 4 0))
            (fun u => u = t ∧ ∃ rs : List WakeRun, u.afw.wakes = s.afw.wakes ++ rs ∧ rs.head? = some w ∧
              (rs.map (·.n)).sum = n ∧ ∀ r ∈ rs, 2 ≤ r.n ∧ 2 ≤ r.first ∧ r.first + r.n ≤ 8 ∧ start ≤ r.frame ∧
                r.frame < s.frm + s.seq.cycLen.toNat ∧ r.via = 0 ∧ r.wcode = wcode ∧
                ∀ j, r.first ≤ j → j < r.first + r.n → (planSlot s.basePlan j).role ≠ roleP))) ∧
      (via = 0 → n ≤ 16 → s.afw.current.wch = none → Completes (.wake a) s [] "-ERR NO_PATH" (· = s)) ∧
      (via ≠ 0 → n ≤ 5 → s.relayReached via = true →
          (∃ d, s.descOf via = some d ∧ d.wake ≠ 0) ∨ (s.descOf via = none ∧ s.afw.current.wch ≠ none) →
        (s.relayBurst via wcode n start = none → Completes (.wake a) s [] "-ERR NOFIT efd=none" (· = s)) ∧
        ∀ w t, s.relayBurst via wcode n start = some (w, t) →
          Completes (.wake a) s [] ("+OK" ++ (kvF "frame" w.frame ++ kvN "slot" w.first ++ kvN "slots" n ++ kvH "via" 4 via))
            (fun u => u.afw.wakes = s.afw.wakes ++ [w] ∧ w.n = n ∧ 2 ≤ w.first ∧ w.first + w.n ≤ 7 ∧ start ≤ w.frame ∧
              w.bundle + 2 ≤ w.frame ∧ w.frame < w.bundle + 256 ∧ w.frame < s.frm + s.seq.cycLen.toNat ∧ w.wcode = wcode ∧
              w.via = lo16 via ∧ ∀ j, w.first ≤ j → j < w.first + w.n → (planSlot s.basePlan j).role ≠ roleP ∧
                ∀ r ∈ s.resvs, inInst r via w.frame j = false)) ∧
      (via ≠ 0 → n ≤ 5 → s.relayReached via = false ∨ (∃ d, s.descOf via = some d ∧ d.wake = 0) ∨
          (s.descOf via = none ∧ s.afw.current.wch = none) → Completes (.wake a) s [] "-ERR NO_PATH" (· = s)))

/-- R39, R66, R107, R139, R143, R147, R154, R174 to R181, R323 to R326: the staged plan and its commit, the radio test
state, windows, gain and the region. The texts of replies, the bar of a recent change, the width of a measurement and
the centres that a test uses are the model's readings (log entries 34, 35, 44, 46 and 62); the word CUT for a test that is
cut, SYNLATE for one that no lock or no PLL lets begin, and TAG and WRUN of a test's result are its choices (log entry
67). -/
def Obligations.PlanAndRadioCommands : Prop :=
  ∀ s : State, s.idleMx →
    (∀ a : PlanArgs, let b := planWith a s.afw.staged
      let narrow := ∃ n, n < 8 ∧ b.role n = roleP ∧ b.cls n = 0
      let keys := a.roles.isSome = true ∨ a.classes.isSome = true ∨ a.fec.isSome = true
      (s.isRelay = true → keys → Completes (.planSet a) s [] "-ERR WRONG_MODE" (· = s)) ∧
      (s.isRelay = false ∨ ¬ keys →
        (planArgsOk a = true → (s.effectivePlan b).aligned = true → ¬ narrow → (s.isRelay = true → b.usesW1 = false) →
          Completes (.planSet a) s [] ("+OK" ++ kvN "staged" 1)
            (fun v => v = { s with afw := { s.afw with staged := b } } ∧ b.roles = a.roles.getD s.afw.staged.roles ∧
              b.classes = a.classes.getD s.afw.staged.classes ∧ b.fec = a.fec.getD s.afw.staged.fec ∧
              b.dch = a.dch.getD s.afw.staged.dch ∧ b.pwr = a.pwr.getD s.afw.staged.pwr ∧ b.uct = s.afw.staged.uct ∧
              b.n = s.afw.staged.n)) ∧
        (planArgsOk a = false ∨ (s.effectivePlan b).aligned = false ∨ narrow ∨ (s.isRelay = true ∧ b.usesW1 = true) →
          Completes (.planSet a) s [] "-ERR BAD_ARG" (· = s)))) ∧
    (∀ b : BasePlan,
      (∀ c n, b.bch = some c → n < 8 → (n ≤ 1 ∨ b.role n = roleP) → alignedFor c (b.cls n) = false → b.aligned = false) ∧
      (∀ c, b.bch = some c → c.win = true → b.aligned = false) ∧
      (∀ c, c ∈ b.dch ∨ b.wch = some c ∨ b.bch = some c ∨ (∃ k, (k, c) ∈ b.uct) → c.win = true → b.usesW1 = true)) ∧
    (∀ (k : Nat) (ch : List Chan) (n : Option Nat), k % 5 = 0 → k ≤ 127 → ch ≠ [] → ch.length ≤ 20 → k + ch.length ≤ 128 →
      optOk n (fun v => decide (1 ≤ v ∧ v ≤ 128)) = true →
      let b : BasePlan := { s.afw.staged with uct := putUct s.afw.staged.uct k ch, n := n.getD s.afw.staged.n }
      ((s.effectivePlan b).aligned = true → (s.isRelay = true → b.usesW1 = false) →
        ∃ fin, Completes (.planUct k ch n) s [] ("+OK" ++ (kvN "start" k ++ fin)) (fun v =>
          v = { s with afw := { s.afw with staged := v.afw.staged } } ∧ v.afw.staged.n = n.getD s.afw.staged.n ∧
          (∀ i, i < ch.length → v.afw.staged.uctAt (k + i) = ch[i]?) ∧
          ∀ i, i < k ∨ k + ch.length ≤ i → v.afw.staged.uctAt i = s.afw.staged.uctAt i)) ∧
      ((s.effectivePlan b).aligned = false ∨ (s.isRelay = true ∧ b.usesW1 = true) →
        Completes (.planUct k ch n) s [] "-ERR BAD_ARG" (· = s))) ∧
    (∀ b, ∃ rest, Completes (.planGet b) s (uctLines (if b then s.afw.staged else s.afw.current))
      ("+OK" ++ (kv "roles" (String.join ((List.range 8).map (fun n =>
        roleLetter ((if b then s.afw.staged else s.afw.current).role n)))) ++ rest)) (· = s)) ∧
    (s.seq.testState = false →
      let e := s.effectivePlan s.afw.staged
      let g := if s.seq.tick ≤ 9312 then s.frm + 1 else s.frm + 2
      let moved := plansDiffer (s.framePlan s.afw.current g) (s.framePlan e g)
      let narrow := ∃ n, n < 8 ∧ e.role n = roleP ∧ e.cls n = 0
      (narrow → Completes .planCommitCommand s [] "-ERR BAD_ARG" (· = s)) ∧
      (¬ narrow → s.afw.orders ≠ [] → moved = true → Completes .planCommitCommand s []
        ("-ERR ORDERS_OUTSTANDING" ++ kvN "out" s.afw.orders.length) (· = s)) ∧
      (∀ x, ¬ narrow → s.afw.orders = [] ∨ moved = false → s.pagesDiffer s.afw.current e = true → s.cfgvBar g = some x →
        Completes .planCommitCommand s [] ("-ERR WRONG_STATE config changed recently" ++ kvF "after" (x - 1)) (· = s)) ∧
      (¬ narrow → s.afw.orders = [] ∨ moved = false → s.pagesDiffer s.afw.current e = false ∨ s.cfgvBar g = none →
        Begins .planCommitCommand s .planCommit none (fun v => v = s.commitBase s.afw.staged ∧
          v.afw.coming = some e ∧ v.afw.current = s.afw.current ∧ v.seq.cur = s.seq.cur ∧
          ∃ p, v.seq.pend = some p ∧ p.plan = s.framePlan e (s.frm + 1) ∧ p.forCmd = true)) ∧
      (s.tx.regLock = false → Completes .radioTest s [] "-ERR WRONG_STATE region unlocked" (· = s)) ∧
      (s.tx.regLock = true → s.afw.orders = [] → Completes .radioTest s [] ("+OK" ++ kv "state" "TEST") (fun v =>
        v = { s with seq := { s.seq with testState := true, testEnd := false } })) ∧
      Completes .radioEnd s [] "-ERR WRONG_STATE" (· = s)) ∧
    (s.seq.testState = true → Completes .radioEnd s [] ("+OK" ++ (kv "state" "PLAN" ++ kvF "frame" (s.frm + 1)))
      (fun v => v = { s with seq := { s.seq with testEnd := true } })) ∧
    (∀ kind ch cls pwr cca lockTick power cut, s.seq.testState = true → cls ≤ 2 → -80 ≤ pwr → pwr ≤ 160 →
      testOk kind cls = true → alignedFor ch cls = true →
      let i : Instr := .radioTx kind ch cls pwr cca lockTick power cut
      let start := max (max 16 lockTick) (s.seq.tick - 1200 * s.seq.slot.toNat)
      let t := testTicks kind cls start
      (s.testRange ch cls pwr t = none → ∃ fin, Completes i s [] ("-ERR REJECTED" ++ fin) (· = s)) ∧
      (∀ j, s.testRange ch cls pwr t = some j →
        let r := regionRange (s.region.getD []) j
        let made := lockTick < 1200 ∧ s.clk.lock = true ∧ s.clk.rxHold = false ∧ start + t ≤ 1128 ∧
          t ≠ 0 ∧ s.gate.passes r j s.frm t = true ∧ lbtClear r cca = true
        pwr ≤ r.pmax ∧ overTxmax r t = false ∧
        rangeOf (s.region.getD []) (s.cen ch.win) ch.bin.toNat (binsOf cls) = some j ∧
        (made → (∀ p k, cut = some (p, k) → t ≤ k) → ∃ fin, Completes i s [] ("+OK outcome=SENT" ++ fin) (fun v =>
          v.gate = s.gate.charge j s.frm t ∧ v.seq.arm = s.seq.arm ∧ v.sram = s.sram ∧
          ∃ x, v.tx.last = some x ∧ x.onair = t ∧ x.start = start ∧ x.cls = cls ∧ x.cutAt = none ∧
            (∀ n, kind = .pkt n → x.wrun = 0 ∧ x.bytes.length = 16 + n ∧ wordAt x.bytes 8 = crc16 0xFFFF (x.bytes.take 8) ∧
              (Header.ofBytes x.bytes).type = 0 ∧ (Header.ofBytes x.bytes).len = n ∧ fcrcOk x.bytes = true ∧
              ∀ k, 10 ≤ k → k < 14 + n → x.bytes.getD k 0 = 0) ∧
            (∀ w, kind = .wake w → x.wrun = 1 ∧ x.wcode = BitVec.ofNat 12 w))) ∧
        (∀ p k, made → cut = some (p, k) → k < t → ∃ fin, Completes i s [] ("+OK outcome=CUT" ++ fin) (fun v =>
          v.gate = s.gate.charge j s.frm k ∧ v.sram = s.sram ∧
          (p = true → v.clk.lol = true ∧ v.clk.lock = false) ∧ (p = false → v.syn.unlk = true ∧ v.syn.lock = false))) ∧
        (¬ made → ∃ fin, Completes i s [] ("+OK outcome=" ++ fin) (fun v =>
          v.gate = s.gate ∧ v.seq = s.seq ∧ v.sram = s.sram ∧ v.tx.last = s.tx.last)) ∧
        (1200 ≤ lockTick ∨ s.clk.lock = false ∨ s.clk.rxHold = true → ∃ fin, Completes i s [] ("+OK outcome=SYNLATE" ++ fin)
          (fun v => v.gate = s.gate)))) ∧
    (∀ w c, w ≤ 1 → (s.isRelay = false ∨ w = 0) → c % 100 = 0 → centreOk (c / 100) = true →
      (s.afw.orders ≠ [] → Completes (.radioWin w c) s [] ("-ERR ORDERS_OUTSTANDING" ++ kvN "out" s.afw.orders.length) (· = s)) ∧
      (∀ x, s.afw.orders = [] → c / 100 ≠ (if w = 1 then s.rxw.cen1 else s.rxw.cen0).toNat →
        s.cfgvBar s.nextBeacon = some x →
        Completes (.radioWin w c) s [] ("-ERR WRONG_STATE config changed recently" ++ kvF "after" (x - 1)) (· = s)) ∧
      (s.afw.orders = [] → c / 100 = (if w = 1 then s.rxw.cen1 else s.rxw.cen0).toNat ∨ s.cfgvBar s.nextBeacon = none →
        (∀ g, s.windowFault (w == 1) (c / 100) = some g → ∃ fin, Completes (.radioWin w c) s [] ("-ERR REJECTED" ++ fin) (· = s)) ∧
        (s.windowFault (w == 1) (c / 100) = none → ∃ fin, Completes (.radioWin w c) s [] ("+OK" ++ (kvN "win" w ++ fin))
          (fun v => (if w = 1 then v.rxw.cen1 else v.rxw.cen0) = BitVec.ofNat 24 (c / 100) ∧
            (if w = 1 then v.rxw.cen0 = s.rxw.cen0 else v.rxw.cen1 = s.rxw.cen1))))) ∧
    (∀ (ant : Ant) (a : AgcArgs),
      let w := match ant with | .a => s.rxw.agcA | .b => s.rxw.agcB
      let mode := a.mode.getD (agcMode w)
      let mn := a.min.getD (agcMin w)
      let mx := a.max.getD (agcMax w)
      let fx := a.fix.getD (agcFix w)
      mode ≤ 2 → mn ≤ mx → mx ≤ 15 → fx ≤ 15 → ∃ fin, Completes (.radioAgc ant a) s [] ("+OK" ++ fin) (fun v =>
        let x := match ant with | .a => v.rxw.agcA | .b => v.rxw.agcB
        agcMode x = mode ∧ agcMin x = mn ∧ agcMax x = mx ∧ agcFix x = fx ∧
          (match ant with | .a => v.rxw.agcB = s.rxw.agcB | .b => v.rxw.agcA = s.rxw.agcA))) ∧
    (∀ ch p, alignedFor ch s.slotClass = true → ∃ la lb new, Completes (.radioMeas ch p) s [] ("+OK" ++ (kv "la" la ++
        kv "lb" lb ++ kvB "new" new ++ kvB "stale" (s.rxHeldAt .a s.now || s.rxHeldAt .b s.now)))
      (fun v => v = { s with free := v.free } ∧ (p = false → v = s))) ∧
    (∀ ch p, alignedFor ch s.slotClass = false → Completes (.radioMeas ch p) s [] "-ERR BAD_ARG" (· = s)) ∧
    (∀ on, on ≤ 1 → Completes (.radioSniff on) s [] ("+OK" ++ kvN "on" on) (fun v =>
      v = { s with lane := { s.lane with filt := bitWord 15 (on == 1) } })) ∧
    (∃ rest, Completes .radioGet s [] ("+OK" ++ (kvN "w0" (100 * s.rxw.cen0.toNat) ++ kvN "w1" (100 * s.rxw.cen1.toNat) ++ rest))
      (fun v => v = { s with rxw := { s.rxw with clipA := false, clipB := false } })) ∧
    (∀ src, 0x580000 ≤ src → src ≤ 0x77FFFF → bufOk src 83 = true →
      let ws := s.rdN src 83
      (s.otp.region.isSome = true → Completes (.regionWriteCommand src) s [] "-ERR LOCKED" (· = s)) ∧
      (s.otp.region = none → regionValid ws = false → ∃ fin, Completes (.regionWriteCommand src) s [] ("-ERR REJECTED" ++ fin)
        (· = s)) ∧
      (s.otp.region = none → regionValid ws = true → Completes (.regionWriteCommand src) s []
        ("+OK" ++ (kvN "reglock" 1 ++ kvN "nrange" (regionN ws))) (fun v => v.otp = { s.otp with region := some ws } ∧
          v.tx.regLock = true ∧ v.tx.extPa = regionExt ws ∧ v.sram = s.sram))) ∧
    (s.region = none → Completes .regionGet s [] ("+OK" ++ kvN "reglock" 0) (· = s)) ∧
    (∀ ws, s.region = some ws → Completes .regionGet s ((List.range (regionN ws)).map (fun j => rangeLine (regionRange ws j)))
      ("+OK" ++ (kv "pa" (if regionExt ws then "EXT" else "INT") ++ kvN "nrange" (regionN ws) ++
        kvN "vctlmax" (field (ws.getD 1 0) 11 0))) (· = s))

/-- R19, R43, R45, R46, R302, R304, R327 to R329, R339, R360, R361, R382, R386, R405: calibration, power, mode, ports
and time by command; POWER STANDBY, POWER SLEEP and MODE SET act once their `+OK` has been sent. The texts of replies
and the wait for `+OK` are the model's readings (log entries 34, 46 and 52); that GT_TXD is sent from queue 27, on which
GNSS SEND waits for room, is its choice (log entry 15). -/
def Obligations.RunCommands : Prop :=
  ∀ s : State, s.idleMx →
    (∀ p : Option CalPart, Begins (.calRun p) s .calRun none (fun v => v.cal.app = s.cal.app ∧ v.cal.tgt = s.cal.tgt ∧
      ∃ r, v.cal.run = some r ∧ ∀ q, (p = none ∨ p = some q) → ∃ b, (q, b) ∈ r.pend ++ r.again)) ∧
    Completes .calGet s [] ("+OK" ++ (s.calFigures ++ kvN "frame" s.cal.figFrame.toNat)) (· = s) ∧
    (∀ n, n ≤ 20 → Completes (.calCfg n) s [] ("+OK" ++ kvN "tdelta" n) (fun v =>
      v = { s with cal := { s.cal with cfg := BitVec.ofNat 16 (n * 2048) } })) ∧
    (∀ n, 20 < n → Completes (.calCfg n) s [] "-ERR BAD_ARG" (· = s)) ∧
    (s.seq.testState = false → ∀ banks : Option (List Nat), (∀ l, banks = some l → ∀ x ∈ l, x ≤ 7) →
      let c := s.curLine
      (∀ st f, s.afw.orders = [] ∨ st = .run ∨ st = .doze → s.pwr.state = st →
        Completes (.power st f banks) s [] ("+OK" ++ kv "state" (powerText st)) (· = s)) ∧
      (∀ st, st = .standby ∨ st = .sleep → s.isRelay = false → s.afw.orders ≠ [] →
        Completes (.power st false banks) s [] ("-ERR ORDERS_OUTSTANDING" ++ kvN "out" s.afw.orders.length) (· = s)) ∧
      (∀ f, s.pwr.state ≠ .run → Begins (.power .run f banks) s .power (some "+OK state=RUN") (· = s.pwrCtl 0)) ∧
      (∀ f, s.pwr.state ≠ .doze → Begins (.power .doze f banks) s .power (some "+OK state=DOZE") (· = s.pwrCtl 1)) ∧
      (∀ st f, s.afw.orders = [] → (st = .standby ∨ st = .sleep) → s.pwr.state ≠ st → c.port ≠ .s →
        ∃ t, exec (.power st f banks) s = .next t ∧ t.pwr.state = s.pwr.state ∧ t.pwr.entering = s.pwr.entering ∧
          t.interp.wait = some { port := c.port, act := (if st = .standby then .standby else .sleep), sent := true, left := 19200 } ∧
          t.interp.long = some ⟨.power, c, none, false⟩ ∧ t.interp.cur = none ∧
          (∀ l, st = .standby → banks = some l → ∀ b, b < 8 → (t.pwr.bankcfg.getLsbD b = true ↔ b ∈ l)) ∧
          (st = .standby → banks = none → t.pwr.bankcfg = 0xFF) ∧
          ((t.lines c.port).out.any (·.mark) || t.interp.lines.any (·.2.mark)) = true) ∧
      (∀ st, (st = .standby ∨ st = .sleep) → s.isRelay = false → s.afw.orders ≠ [] → s.pwr.state ≠ st → c.port ≠ .s →
        ∃ t, exec (.power st true banks) s = .next t ∧ t.afw.orders = [] ∧ t.pwr.state = s.pwr.state ∧
          t.interp.wait = some { port := c.port, act := (if st = .standby then .standby else .sleep), sent := true, left := 19200 } ∧
          t.interp.long = some ⟨.power, c, none, false⟩ ∧ t.interp.cur = none) ∧
      (∀ st f, (st = .standby ∨ st = .sleep) → s.afw.orders = [] → s.pwr.state ≠ .standby → s.pwr.state ≠ .sleep →
        s.pwr.entering = false → c.port = .s → (s.lines .s).waiting = [] → s.interp.lines = [] →
        let n := s.lineChars .s (tagged c.tag ("+OK" ++ kv "state" (powerText st)))
        ((s.lines .s).used + n ≤ 16224 →
          ∃ t, exec (.power st f banks) s = .next t ∧ t.pwr.entering = true ∧ t.pwr.toSleep = (st == .sleep) ∧
            t.seq.arm = 0 ∧ ∃ o, (t.lines .s).out.getLast? = some o ∧
              o.text = lineText (s.lines .s).gen (tagged c.tag ("+OK" ++ kv "state" (powerText st)))) ∧
        (16224 < (s.lines .s).used + n →
          ∃ t, exec (.power st f banks) s = .next t ∧ t.pwr.entering = false ∧ t.pwr.state = s.pwr.state ∧
            ∃ w, t.interp.wait = some w ∧ w.port = .s ∧ w.sent = false ∧ t.okWaits = true))) ∧
    Completes .powerGet s [] ("+OK" ++ (kv "state" (powerText s.pwr.state) ++ kv "banks" (bankList s.pwr.bankcfg))) (· = s) ∧
    (∀ f r a, (s.modeBlock r a = none → Completes (.modeSetCommand f r a) s [] "-ERR BAD_ARG" (· = s)) ∧
      (∀ b, s.modeBlock r a = some b → s.afw.orders ≠ [] → f = false →
        Completes (.modeSetCommand f r a) s [] ("-ERR ORDERS_OUTSTANDING" ++ kvN "out" s.afw.orders.length) (· = s)) ∧
      (∀ b, s.modeBlock r a = some b → s.afw.orders = [] → ∃ t, exec (.modeSetCommand f r a) s = .next t ∧
        t.interp.wait = some { port := s.curLine.port, act := .modeSet b, sent := true, left := 19200 } ∧
        t.interp.long = some ⟨.modeSet, s.curLine, none, false⟩ ∧ t.aon = s.aon ∧ t.modeFlash = s.modeFlash) ∧
      (∀ b, s.modeBlock r a = some b → s.isRelay = false → s.afw.orders ≠ [] → f = true →
        ∃ t, exec (.modeSetCommand f r a) s = .next t ∧ t.afw.orders = [] ∧
          t.interp.wait = some { port := s.curLine.port, act := .modeSet b, sent := true, left := 19200 } ∧
          t.interp.long = some ⟨.modeSet, s.curLine, none, false⟩ ∧ t.modeFlash = s.modeFlash)) ∧
    (s.relay = none → Completes .modeGetCommand s [] ("+OK" ++ kv "mode" s.modeText) (· = s)) ∧
    (∀ r, s.relay = some r → ∃ rest, Completes .modeGetCommand s [] ("+OK" ++ (kv "mode" s.modeText ++
      kvH "addr" 4 r.addr.toNat ++ rest)) (· = s)) ∧
    (∀ (p : MPort) (a : PortArgs), (p = .s → a.baud = none) → optOk a.baud (fun b => decide (1200 ≤ b ∧ b ≤ 3072000)) = true →
      (∀ l, a.sub = some l → EvClass.ready ∉ l ∧ EvClass.safe ∉ l) →
      let c := s.curLine
      let rate := match a.baud with
        | some b => some (rateOf (divFor b))
        | none => s.portRate p
      let ok := tagged c.tag ("+OK" ++ (kv "port" (portName p) ++ kv "mode" (if a.gen.getD (s.lines p).gen then "GEN" else "TYPED") ++
        (match rate with | some r => kvN "baud" r | none => "") ++ kv "sub" (subsText (a.sub.getD (s.lines p).subs))))
      ∃ t, exec (.port p a) s = .next t ∧ t.interp.cur = none ∧
        ((s.lines c.port).used + s.lineChars c.port ok ≤ 16224 → (∀ x ∈ s.interp.lines, x.1 ≠ c.port) →
          (t.lines p).gen = a.gen.getD (s.lines p).gen ∧ (t.lines p).subs = a.sub.getD (s.lines p).subs ∧
          (t.lines c.port).out.map (·.text) =
            (s.lines c.port).out.map (·.text) ++ [s.wrapEcho c.port (lineText (s.lines c.port).gen ok)] ∧
          (a.baud = none → t.porta.div = s.porta.div ∧ t.portb.div = s.portb.div) ∧
          (∀ b, a.baud = some b →
            let v : Word := BitVec.ofNat 16 ((2 * 76800000 + b) / (2 * b))
            (c.port = p → t.porta.div = s.porta.div ∧ t.portb.div = s.portb.div ∧
              ∃ o, (t.lines p).out.getLast? = some o ∧ o.div = some v) ∧
            (c.port ≠ p → p = .a → t.porta.div = v ∧ t.portb.div = s.portb.div) ∧
            (c.port ≠ p → p = .b → t.portb.div = v ∧ t.porta.div = s.porta.div))) ∧
        (16224 < (s.lines c.port).used + s.lineChars c.port ok ∨ (∃ x ∈ s.interp.lines, x.1 = c.port) →
          (∀ q, t.lines q = s.lines q) ∧ t.porta = s.porta ∧ t.portb = s.portb ∧
          ∃ o : OutLine, t.interp.lines = s.interp.lines ++ [(c.port, o)] ∧ o.text = ok ∧ o.set = some (p, a))) ∧
    (∃ rest, Completes .time s [] ("+OK" ++ (kvN "frame" s.frm ++ kvN "fic" s.seq.fic.toNat ++ kvN "cir" s.seq.cir.toNat ++
      kvN "rot" s.seq.rot.toNat ++ rest)) (· = s)) ∧
    (s.isRelay = false →
      (∀ utc f, s.afw.nmeaOn = false → s.frm < f → Completes (.timeSet utc (some f)) s []
        ("+OK" ++ (kvN "frame" f ++ kv "utc" (utcText utc))) (fun v =>
          v = { s with afw := { s.afw with utc := some ((utc : Int) - (f : Int)), usrc := .host } } ∧
          v.utcOf f = utcText utc)) ∧
      (∀ utc f, s.afw.nmeaOn = true → Completes (.timeSet utc f) s [] "-ERR WRONG_STATE" (· = s)) ∧
      (∀ on, on ≤ 1 → Completes (.timeNmea on) s [] ("+OK" ++ kvN "on" on) (fun v =>
        v = { s with afw := { s.afw with nmeaOn := on == 1 } })) ∧
      (∀ on, on ≤ 1 → Completes (.timePps on) s [] ("+OK" ++ kvN "on" on) (fun v =>
        v = { s with seq := { s.seq with ppsen := on == 1 } })) ∧
      (∀ fr ro : Option Nat, optOk fr (fun v => decide (60 ≤ v ∧ v ≤ 3600)) = true →
        optOk ro (fun v => decide (1 ≤ v ∧ v ≤ 1008)) = true → fr = none ∨ s.afw.orders = [] →
        let cyc := fr.getD (s.seq.cycPend.getD s.seq.cycLen).toNat
        let rot := ro.getD (s.seq.rotPend.getD s.seq.rotLen).toNat
        ((fr = none ∧ ro = none) ∨ s.cycleHeld cyc rot 0 = false → ∃ rest, Completes (.timeCycle fr ro) s []
          ("+OK" ++ (kvN "frames" cyc ++ kvN "rot" rot ++ rest)) (fun v => v = { s with seq := { s.seq with
            cycPend := (match fr with | some x => some (BitVec.ofNat 12 x) | none => s.seq.cycPend),
            rotPend := (match ro with | some x => some (BitVec.ofNat 10 x) | none => s.seq.rotPend) } })) ∧
        (fr.isSome = true ∨ ro.isSome = true → s.cycleHeld cyc rot 0 = true → ∃ rest, Completes (.timeCycle fr ro) s []
          ("-ERR WRONG_STATE config changed recently" ++ rest) (· = s)))) ∧
    (∀ d : List Byte, d ≠ [] → d.length ≤ 80 → d.all gnssByteOk = true →
      let line := 0x24 :: d ++ [0x2A] ++ strBytes (hexN 2 (d.foldl (· ^^^ ·) 0).toNat) ++ [0x0D, 0x0A]
      let q := s.queue 27
      (q.en = true → s.timep.tx.length + line.length ≤ 64 * (q.sizeM1.toNat + 1) → Completes (.gnssSend d) s []
        ("+OK" ++ kvN "len" d.length) (fun v => v = { s with timep := { s.timep with tx := s.timep.tx ++ line } })) ∧
      (q.en = false ∨ 64 * (q.sizeM1.toNat + 1) < s.timep.tx.length + line.length →
        exec (.gnssSend d) s = .next { s with interp := { s.interp with gnss := some line } })) ∧
    (∃ rest, Completes .gnssGet s [] ("+OK" ++ (kv "utc" (match s.timep.utc with | some u => utcText u | none => "NONE") ++
      rest)) (· = s)) ∧
    (∀ (text : List Byte) (clear : Bool), bit s.timep.cfg 15 = false ∨ s.asleep = true →
      exec (.nmeaSentence text clear) s = .next s) ∧
    (∀ (text : List Byte) (clear : Bool), s.afw.ready = true → bit s.timep.cfg 15 = true →
      let l := (text.map (fun b => Char.ofNat b.toNat)).filter (fun c => c != '\r' && c != '\n')
      (nmeaType l = none → exec (.nmeaSentence text clear) s = .next s) ∧
      (∀ rmc body t, text.length ≤ 82 → nmeaType l = some rmc → nmeaBody l = some body →
        nmeaUtc rmc (splitChars ',' body) = some t → ∃ u, exec (.nmeaSentence text clear) s = .next u ∧
          u.timep = { s.timep with utc := some t } ∧ u.seq = s.seq ∧
          (s.afw.nmeaOn = true → s.seq.ppsLock = true → clear = true →
            u.afw = { s.afw with utc := some ((t : Int) - (s.frm : Int)), usrc := .nmea }) ∧
          (s.afw.nmeaOn = false ∨ s.seq.ppsLock = false ∨ clear = false → u.afw = s.afw)) ∧
      (∀ rmc, text.length ≤ 82 → nmeaType l = some rmc → nmeaBody l = none →
        exec (.nmeaSentence text clear) s = .next (s.event .log "NMEABAD" " reason=CHECKSUM")))

/-- R202, R232, R271 to R274, R281 to R283, R293, R313, R330 to R336, R427: keys, firmware, statistics, the log, PEEK
and POKE, SAFE, RESET and HELP, and where a command is refused. The texts of replies, the listing of HELP, PEEK and
POKE through core A0 and the commands of safe-hold are the model's readings (log entries 36, 37, 44 to 48 and 52); the
staging area of FW WRITE and FW LOAD at `stagingAddr` is its choice (log entry 7). -/
def Obligations.SystemCommands : Prop :=
  (∀ s : State, s.idleMx →
    (∀ blob : List Byte, blob.length = 32 →
      let r := s.keyImport blob
      ∃ rest, Completes (.keyImportCommand blob) s []
        (if r.1 = 0x00 then "+OK entry=0x" ++ rest else if r.1 = 0x07 then "-ERR UNWRAP" else if r.1 = 0x09 then "-ERR DENIED"
          else "-ERR BAD_ARG") (· = r.2)) ∧
    (∀ e, e ≤ 0xFFFF →
      (e = bslotEntry s.aon.bslot → Completes (.keyDel e) s [] "-ERR DENIED" (· = s)) ∧
      (e ≠ bslotEntry s.aon.bslot → s.memOk → Completes (.keyDel e) s [] ("+OK" ++ kvH "entry" 4 e) (fun v =>
        OnlySram s v (inWords (keyAddr e) 0 8) ∧ v.hasKey e = false)) ∧
      (∃ rest, Completes (.keyGet e) s [] ("+OK" ++ (kvH "entry" 4 e ++ kvB "present" (s.hasKey e) ++ rest)) (· = s))) ∧
    (s.isRelay = false → s.afw.orders.any (·.keySend) = true → Completes .keySwitch s []
      ("-ERR ORDERS_OUTSTANDING" ++ kvN "out" s.afw.orders.length) (· = s)) ∧
    (s.isRelay = false → s.afw.orders.any (·.keySend) = false → Completes .keySwitch s [] ("+OK" ++ kvB "current" (!s.aon.bslot))
      (fun v => let w : State := { s with aon := { s.aon with bslot := !s.aon.bslot } }
        OnlyDown w v ∧ (s.afw.built = [] ∨ s.hasKey (bslotEntry (!s.aon.bslot)) = true → v = w))) ∧
    (∀ d : List Byte, d.length = 16 →
      (s.otp.secret = none → Completes (.keySecret d) s [] ("+OK" ++ kvN "otp" 1) (fun v =>
        v = { s with otp := { s.otp with secret := some d } })) ∧
      (s.otp.secret.isSome = true → Completes (.keySecret d) s [] "-ERR LOCKED" (· = s))) ∧
    (∀ (off : Nat) (d : List Byte), off % 2 = 0 → d ≠ [] → d.length % 2 = 0 → d.length ≤ 120 → off + d.length ≤ 393216 →
      s.memOk → Completes (.fwWrite off d) s [] ("+OK" ++ (kvN "off" off ++ kvN "len" d.length)) (fun v =>
        OnlySram s v (inWords stagingAddr (off / 2) (off / 2 + d.length / 2)) ∧
        ∀ i, 2 * i < d.length → loByte (v.rd (stagingAddr + off / 2 + i)) = d.getD (2 * i) 0 ∧
          hiByte (v.rd (stagingAddr + off / 2 + i)) = d.getD (2 * i + 1) 0)) ∧
    (∀ (slot : Nat) (ws : List Word), slot ≤ 1 →
      s.stagedHeader = s.rdN stagingAddr 64 ∧ s.staged = s.rdN stagingAddr (imgLength s.stagedHeader / 2) ∧
      (s.headerValid s.stagedHeader = true → ws = s.staged → ∃ rest, Begins (.fwLoad slot ws) s .fwLoad
        (some ("+OK" ++ (kvN "slot" slot ++ kvN "length" (imgLength s.stagedHeader) ++ rest))) (· = s)) ∧
      (s.headerValid s.stagedHeader = true → ws ≠ s.staged → Begins (.fwLoad slot ws) s .fwLoad (some "-ERR FLASH") (· = s)) ∧
      (s.headerValid s.stagedHeader = false → ∃ rest, Begins (.fwLoad slot ws) s .fwLoad (some ("-ERR VERIFY" ++ rest)) (· = s)) ∧
      (ws.length < 64 → Begins (.fwVerify slot ws) s .fwVerify (some "-ERR FLASH") (· = s)) ∧
      (64 ≤ ws.length → ∃ rest, Begins (.fwVerify slot ws) s .fwVerify
        (some (if s.imageOk ws then "+OK" ++ (kvN "slot" slot ++ rest) else "-ERR VERIFY" ++ rest)) (· = s))) ∧
    (∃ rest, Completes .fwGet s [] ("+OK version=0x" ++ rest) (· = s)) ∧
    (s.otp.keyHash = none → Completes .fwKeyhash s [] ("+OK" ++ kv "keyhash" "SET") (fun v =>
      v = { s with otp := { s.otp with keyHash := some s.img.keyHash } })) ∧
    (s.otp.keyHash.isSome = true → Completes .fwKeyhash s [] "-ERR LOCKED" (· = s)) ∧
    (s.img.valid = true → s.otp.svn ≤ s.img.svn → Completes .fwCommit s [] ("+OK" ++ kvN "counter" s.img.svn) (fun v =>
      v = { s with otp := { s.otp with svn := s.img.svn } })) ∧
    (s.img.valid = false ∨ s.img.svn < s.otp.svn → Completes .fwCommit s [] "-ERR DENIED" (· = s)) ∧
    Completes (.stat .sys) s [] ("+OK" ++ s.statSys) (· = s) ∧
    Completes (.stat .orders) s [] ("+OK" ++ s.statOrders) (· = s) ∧
    Completes (.stat .duty) s ((List.range (regionN (s.region.getD []))).map s.dutyLine) "+OK" (· = s) ∧
    (∃ rest, Completes (.stat .radio) s [] ("+OK" ++ rest) (fun v =>
      v = { s with rxw := { s.rxw with clipA := false, clipB := false } })) ∧
    (let total (i : Fin 32) : Nat := (s.afw.stats.cec.get i + (s.que.q.get i).cec.toNat) % 2 ^ 32
      let conts := (s.que.q.toList.zipIdx.filter (fun x => x.1.en)).map (fun x =>
        "q=" ++ toString x.2 ++ kvN "cec" ((List.ofFn total).getD x.2 0))
      Completes (.stat .lanes) s conts ("+OK" ++ (kvN "dropc" ((s.afw.stats.dropc + s.lane.dropc.toNat) % 2 ^ 32) ++
          kvN "hdrc" ((s.afw.stats.hdrc + s.lane.hdrc.toNat) % 2 ^ 32) ++
          kvN "filtc" ((s.afw.stats.filtc + s.lane.filtc.toNat) % 2 ^ 32) ++
          kvN "resdrop" ((s.afw.stats.resdrop + s.tx.resDrop.toNat) % 2 ^ 32)))
        (fun v => v.lane.dropc = 0 ∧ v.lane.hdrc = 0 ∧ v.lane.filtc = 0 ∧ v.tx.resDrop = 0 ∧
          (∀ i, (v.que.q.get i).cec = 0 ∧ (v.que.q.get i).words = (s.que.q.get i).words ∧ v.afw.stats.cec.get i = total i) ∧
          v.seq = s.seq ∧ v.sram = s.sram)) ∧
    (∀ i : Fin 32, Completes (.peek (0xFF60A0 + i.val) (some 1)) s [] ("+OK" ++ (kvH "addr" 6 (0xFF60A0 + i.val) ++
        kv "data" (hexN 4 (s.que.q.get i).cec.toNat)))
      (fun v => (v.que.q.get i).cec = 0 ∧ v.afw.stats.cec.get i = s.afw.stats.cec.get i + (s.que.q.get i).cec.toNat ∧
        v.sram = s.sram)) ∧
    (∀ from? count : Option Nat, optOk count (fun n => decide (1 ≤ n ∧ n ≤ 32)) = true → optOk from? isLong = true →
      ∃ (es : List LogEntry) (fin : String), Completes (.log from? count) s (es.map LogEntry.line) ("+OK first=" ++ fin)
        (· = s) ∧ es.length ≤ count.getD 16 ∧ es.Sublist s.afw.log ∧ ∀ e ∈ es, ∀ k, from? = some k → k ≤ e.seqNo) ∧
    (∀ addr n, 1 ≤ n → n ≤ 60 → addr + n ≤ keyBase →
      (∀ i, i < n → s.pwr.bankOn.getLsbD (bankOf (addr + i)) = true ∧ s.drains (bankOf (addr + i)) = false ∧
        eccWord (addr + i) ∉ s.sram.bad) →
      Completes (.peek addr (some n)) s [] ("+OK" ++ (kvH "addr" 6 addr ++
        kv "data" (String.join ((s.rdN addr n).map (fun w => hexN 4 w.toNat))))) (fun v =>
          v = { s with sram := v.sram, ecc := v.ecc, pwr := { s.pwr with bankOn := v.pwr.bankOn } } ∧
          ∀ b, v.rd b = s.rd b)) ∧
    (∀ (addr : Nat) (d : List Word), d ≠ [] → d.length ≤ 60 → addr + d.length ≤ keyBase → s.memOk →
      (s.afw.orders ≠ [] → addr ≤ 0x57FFFF → Completes (.poke addr d) s []
        ("-ERR ORDERS_OUTSTANDING" ++ kvN "out" s.afw.orders.length) (· = s)) ∧
      (s.afw.orders = [] → (∀ i, i < d.length → s.pwr.bankOn.getLsbD (bankOf (addr + i)) = true ∧
          s.drains (bankOf (addr + i)) = false) →
        Completes (.poke addr d) s [] "+OK" (fun v => OnlySram s v (inWords addr 0 d.length) ∧ v.rdN addr d.length = d))) ∧
    Completes .safe s [] ("+OK" ++ kvN "safe" 0) (· = s) ∧
    (let c := s.curLine
      let n := s.lineChars c.port (tagged c.tag "+OK")
      ((s.lines c.port).used + n ≤ 16224 → (∀ x ∈ s.interp.lines, x.1 ≠ c.port ∧ x.2.mark = false) →
        ∃ u t, exec .safeEnterCommand s = .next t ∧ OnlyLines s u ∧ Said s u [] "+OK" ∧ t = u.enterSafe 5 ∧
          t.safe.on = true ∧ t.safe.cause = 5 ∧ t.sram = s.sram ∧ t.otp = s.otp) ∧
      (16224 < (s.lines c.port).used + n → ∃ t, exec .safeEnterCommand s = .next t ∧ t.safe = s.safe ∧ t.okWaits = true ∧
        ∃ w, t.interp.wait = some w ∧ w.act = .safeEnter ∧ w.port = c.port ∧ w.sent = false)) ∧
    Completes (.help none) s verbs "+OK" (· = s) ∧
    (∀ v ∈ verbs, Completes (.help (some v)) s (verbLines v) "+OK" (· = s)) ∧
    (∀ v, v ∉ verbs → Completes (.help (some v)) s [] "-ERR UNKNOWN" (· = s)) ∧
    (∀ i, coordOnly i = true → s.isRelay = true → Completes i s [] "-ERR WRONG_MODE" (· = s)) ∧
    (∀ i, testBarred i = true → (coordOnly i = true → s.isRelay = false) → s.seq.testState = true →
      Completes i s [] "-ERR WRONG_STATE" (· = s))) ∧
  ∀ s : State, s.served = true →
    (s.safe.on = true → Completes .safe s [] ("+OK" ++ (kvN "safe" 1 ++ kvH "cause" 1 s.safe.cause.toNat ++
      kvN "frame" s.safe.frame.toNat)) (· = s)) ∧
    (s.safe.on = true → Completes (.stat .sys) s [] ("+OK" ++ s.statSafe) (· = s)) ∧
    (s.safe.on = true → Completes (.help none) s ["HELP", "SAFE", "STAT", "RESET"] "+OK" (· = s)) ∧
    (s.safe.on = true → s.interp.gnss = none → s.interp.lines = [] → ∀ i, coordOnly i = true ∨ testBarred i = true →
      Completes i s [] "-ERR SAFE_HOLD" (· = s)) ∧
    (s.safe.on = true ∨ (s.busy = false ∧ s.interp.gnss = none ∧ s.interp.lines = []) →
      ∃ t, exec .reset s = .next t ∧ t.interp.cur = none ∧
      t.interp.wait = some { port := s.curLine.port, act := .reset, sent := true, left := 19200 } ∧ t.sram = s.sram ∧ t.aon = s.aon)

/-! ### Ports and device lines -/

/-- R286, R287, R292, R339 to R357: characters and breaks on the UARTs, frames of Port S by their KIND, transfers of
Port M. Forming echo and wrap when a line is enqueued is the model's reading (log entry 43). The queues that AFW names for
the ports (afwRxq, afwTxq, and 26 for GT_RXD) and the moment at which a written divisor is in force are the model's choices
(log entry 15); what a bank that powers down under a transfer leaves of it is its reading of R389 (log entry 75). -/
def Obligations.PortTraffic : Prop :=
  ∀ s : State,
    (let q := rxq s.porta.cfg
      let l := s.lines .a
      (s.served = true → bit s.porta.cfg 15 = true → q = afwRxq .a → (s.queue q).en = true → (s.queue q).words = [] →
        (∀ ch : Byte, 32 ≤ ch.toNat → ch.toNat ≤ 126 → l.midLine = false → l.overlong = false → l.partialRev.length < 255 →
          ∃ t, exec (.uartCharacterRx .a ch false) s = .next t ∧ (t.lines .a).partialRev = Char.ofNat ch.toNat :: l.partialRev ∧
            (t.lines .a).done = l.done ∧ t.porta.div = s.porta.div ∧ t.sram = s.sram ∧ (t.queue q).words = [] ∧
            (t.lines .a).out = (if l.gen then l.out
              else l.out ++ [{ cls := none, text := String.singleton (Char.ofNat ch.toNat) }])) ∧
        (l.midLine = false → l.overlong = false → l.partialRev.any (· != ' ') = true →
          ∃ t, exec (.uartCharacterRx .a 13 false) s = .next t ∧ (t.lines .a).partialRev = [] ∧ (t.lines .a).lastCr = true ∧
            (t.lines .a).done = l.done ++ [(String.ofList l.partialRev.reverse, false, l.badChar)]) ∧
        (l.lastCr = true → ∃ t, exec (.uartCharacterRx .a 10 false) s = .next t ∧ (t.lines .a).done = l.done ∧
          (t.lines .a).partialRev = l.partialRev ∧ (t.lines .a).lastCr = false) ∧
        (∀ x r, l.gen = false → l.midLine = false → l.overlong = false → l.partialRev = x :: r →
          ∃ t, exec (.uartCharacterRx .a 8 false) s = .next t ∧ (t.lines .a).partialRev = r)) ∧
      (∀ ch, bit s.porta.cfg 15 = true → s.asleep = false → ∃ t, exec (.uartCharacterRx .a ch true) s = .next t ∧
        t.porta.ferr = true ∧
        t.porta.ferrc = satInc8 s.porta.ferrc ∧ t.porta.l = l) ∧
      (∀ ch, bit s.porta.cfg 15 = true → s.served = true → (s.queue q).full = true →
        ∃ t, exec (.uartCharacterRx .a ch false) s = .next t ∧ t.porta.rxOvr = true ∧ t.porta.ovrc = satInc8 s.porta.ovrc ∧
          t.porta.l = l) ∧
      (∀ ch, bit s.porta.cfg 15 = true → s.served = true → q ≠ afwRxq .a → (s.queue q).full = false →
        ∃ t, exec (.uartCharacterRx .a ch false) s = .next t ∧ t.porta = s.porta ∧ OnlyQueue q s t ∧
          (t.queue q).words = (s.queue q).words ++ [⟨ch.setWidth 16, false, false⟩]) ∧
      (∀ ch stop, bit s.porta.cfg 15 = false → s.served = true → exec (.uartCharacterRx .a ch stop) s = .next s) ∧
      (∀ p ch stop, s.asleep = true → exec (.uartCharacterRx p ch stop) s = .next s) ∧
      (∀ ch, s.served = false → s.asleep = false → exec (.uartCharacterRx .a ch false) s =
        .next { s with porta := { s.porta with l := { l with midLine := !(ch == 13 || ch == 10) } } })) ∧
    (let q := rxq s.timep.cfg;
      s.served = true → bit s.timep.cfg 15 = true → ∀ ch : Byte,
      (exec (.uartCharacterRx .t ch true) s = .next { s with timep := { s.timep with ferr := true } }) ∧
      ((s.queue q).full = true →
        exec (.uartCharacterRx .t ch false) s = .next { s with timep := { s.timep with rxOvr := true } }) ∧
      ((s.queue q).full = false → q ≠ 26 → ∃ t, exec (.uartCharacterRx .t ch false) s = .next t ∧ OnlyQueue q s t ∧
        (t.queue q).words = (s.queue q).words ++ [⟨ch.setWidth 16, false, false⟩])) ∧
    (bit s.porta.cfg 15 = true → s.served = true → rxq s.porta.cfg = afwRxq .a → (s.queue (afwRxq .a)).en = true →
      (s.queue (afwRxq .a)).words = [] →
      ∃ t, exec (.uartBreak .a) s = .next t ∧ t.porta.brk = true ∧ (t.lines .a).partialRev = [] ∧
        (t.lines .a).done = (s.lines .a).done ∧ (t.lines .a).out = (s.lines .a).out) ∧
    (bit s.porta.cfg 15 = true → s.served = true → rxq s.porta.cfg ≠ afwRxq .a → (s.queue (rxq s.porta.cfg)).full = false →
      ∃ t, exec (.uartBreak .a) s = .next t ∧ t.porta = { s.porta with brk := true } ∧
        (t.queue (rxq s.porta.cfg)).words = (s.queue (rxq s.porta.cfg)).words ++ [⟨0x8000, false, false⟩]) ∧
    (bit s.porta.cfg 15 = true → s.served = false → s.asleep = false → ∃ t, exec (.uartBreak .a) s = .next t ∧
      t.porta.brk = true ∧ (t.lines .a).partialRev = []) ∧
    (bit s.porta.cfg 15 = false → s.served = true → exec (.uartBreak .a) s = .next s) ∧
    (bit s.porta.cfg 15 = false → s.served = false → s.asleep = false → ∃ t, exec (.uartBreak .a) s = .next t ∧
      t.porta.brk = s.porta.brk ∧ (t.lines .a).partialRev = [] ∧ (t.lines .a).done = (s.lines .a).done) ∧
    (∀ p, s.asleep = true → exec (.uartBreak p) s = .next s ∧ exec (.uartCharacterTx p) s = .next s) ∧
    (bit s.timep.cfg 15 = true → s.asleep = false → ∃ t, exec (.uartBreak .t) s = .next t ∧ t.timep.brk = true ∧ t.porta = s.porta ∧
      t.portb = s.portb) ∧
    (bit s.timep.cfg 15 = false → exec (.uartBreak .t) s = .next s) ∧
    (∀ o r, s.asleep = false → bit s.porta.cfg 15 = true → txq s.porta.cfg = afwTxq .a → (s.queue (txq s.porta.cfg)).en = true →
      s.interp.wait = none → (s.lines .a).out = o :: r → o.sent < o.text.length →
      ∃ t, exec (.uartCharacterTx .a) s = .next t ∧
        (let last := o.sent + 1 = o.text.length;
          (t.lines .a).out = (if last then r else { o with sent := o.sent + 1 } :: r) ∧
          t.porta.div = (if last then o.div.getD s.porta.div else s.porta.div) ∧ t.porta.divTx = t.porta.div) ∧
        outChars (t.lines .a).out + 1 = outChars (s.lines .a).out) ∧
    (∀ w r, s.asleep = false → bit s.porta.cfg 15 = true → txq s.porta.cfg ≠ afwTxq .a → (s.queue (txq s.porta.cfg)).en = true →
      (s.queue (txq s.porta.cfg)).words = w :: r → ∃ t, exec (.uartCharacterTx .a) s = .next t ∧
        (t.queue (txq s.porta.cfg)).words = r ∧ (t.lines .a).out = (s.lines .a).out ∧ t.porta.divTx = s.porta.div) ∧
    (∀ v : Word,
      (25 ≤ v.toNat ∧ v.toNat ≤ 64000 →
        (∃ t, exec (.portaDivWrite false v) s = .next t ∧ (∀ c, t.regValue c 0x7001 = v) ∧ t.portb = s.portb ∧
          t.porta = { s.porta with div := v, divRx := v, divTx := if (s.lines .a).out.isEmpty then v else s.porta.divTx }) ∧
        (∃ t, exec (.portaDivWrite true v) s = .next t ∧ (∀ c, t.regValue c 0x7101 = v) ∧ t.porta = s.porta ∧
          t.portb = { s.portb with div := v, divRx := v, divTx := if (s.lines .b).out.isEmpty then v else s.portb.divTx })) ∧
      (v.toNat < 25 ∨ 64000 < v.toNat → ∀ b, exec (.portaDivWrite b v) s = .next s)) ∧
    (let held : PortPins := { uaTxd := true, ubTxd := true, gtTxd := true, uaRdy := false, ssAttn := false, alertN := true,
                              ssSdo := none, smSck := false, smSdo := false, smSel := [true, true, true, true] };
      (s.pwr.state = .standby ∨ s.pwr.state = .sleep → s.portPins = held) ∧
      (s.afw.ready = false → s.safe.on = false → s.pwr.state = .run → s.boot.stage ≠ .hostLoad → s.portPins = held) ∧
      (s.afw.ready = true → s.pwr.state = .run → let x := s.portPins
        x.uaTxd = true ∧ x.ubTxd = true ∧ x.ssSdo = none ∧ x.uaRdy = bit s.porta.cfg 14 ∧ x.ssAttn = bit s.ports.cfg 14 ∧
        (x.alertN = true ↔ bit s.porta.cfg 13 = false ∧ bit s.portb.cfg 13 = false) ∧
        ∀ i, i < 4 → (x.smSel.getD i false = false ↔ s.portm.held = some (BitVec.ofNat 2 i) ∨
          ∃ m, s.portm.run = some m ∧ m.sel = BitVec.ofNat 2 i))) ∧
    (∃ t, exec .uaRdyUpdate s = .next t ∧ (bit t.porta.cfg 14 = true ↔ s.afw.ready = true ∧ s.safe.on = false ∧
        s.busy = false ∧ (s.lines .a).waiting.length < 4) ∧ ∀ i, i < 16 → i ≠ 14 → bit t.porta.cfg i = bit s.porta.cfg i) ∧
    ((s.lines .a).out.any (·.cls.isSome) = false → ∃ t, exec (.alertClear false) s = .next t ∧ bit t.porta.cfg 13 = false ∧
      t.porta.l = s.porta.l) ∧
    ((s.lines .a).out.any (·.cls.isSome) = true → exec (.alertClear false) s = .next s) ∧
    (∀ (bytes : List Byte) (extra : BitVec 3), bit s.ports.cfg 15 = true → s.served = true → s.interp.wait = none →
      1 ≤ bytes.length → rxq s.ports.cfg = afwRxq .s → (s.queue (afwRxq .s)).en = true →
      txq s.ports.cfg = afwTxq .s →
      let f := frameLine bytes
      let k := frameKind bytes.length extra f
      ∃ t, exec (.portsFrame bytes extra) s = .next t ∧ t.ports.lastTx.head? = some s.ports.status ∧
        t.ports.lastTx.length = bytes.length ∧ t.ports.frag = decide (extra ≠ 0) ∧
        t.ports.seqBit = (if k = 0 ∨ k = 3 then !s.ports.seqBit else s.ports.seqBit) ∧
        t.ports.ovr = decide (4096 < bytes.length ∧ extra = 0) ∧
        (k = 1 ∨ k = 2 → (t.lines .s).done = (s.lines .s).done ∧ (t.lines .s).partialRev = (s.lines .s).partialRev) ∧
        (∀ cs : List Byte, bytes = cs ++ [13] → extra = 0 → (∀ b ∈ cs, 32 ≤ b.toNat ∧ b.toNat ≤ 126) → cs.length ≤ 255 →
          (∃ b ∈ cs, b ≠ 32) → (s.lines .s).midLine = false →
          k = 0 ∧ (t.lines .s).done = (s.lines .s).done ++ [(String.ofList (cs.map (fun b => Char.ofNat b.toNat)), false, false)])) ∧
    (∀ bytes extra, s.asleep = true →
      exec (.portsFrame bytes extra) s = .next { s with ports := { s.ports with lastTx := [] } }) ∧
    (∀ v : Word, ∃ t, exec (.portsTxaddWrite v) s = .next t ∧
      t.ports.txavl.toNat = min 65535 (s.ports.txavl.toNat + v.toNat) ∧ t.ports.l = s.ports.l ∧ t.ports.seqBit = s.ports.seqBit) ∧
    (∀ (c : CoreId) (v : Word),
      let m := s.portm.latch v
      let bad := m.len = 0 ∨ s.portm.pend ≠ none ∨ (c.isT = false ∧
        ((m.txOff = false ∧ 0x780000 < m.tx.toNat + (m.len.toNat + 15) / 16) ∨
          (m.rxOff = false ∧ 0x780000 < m.rx.toNat + (m.len.toNat + 15) / 16)))
      m.len = v.setWidth 12 ∧ m.hold = bit v 14 ∧ m.sel.toNat = field v 13 12 ∧
      (bad → exec (.portmTransferStart c v) s = .next { s with portm := { s.portm with err := true } }) ∧
      (¬ bad → s.portm.run ≠ none →
        exec (.portmTransferStart c v) s = .next { s with portm := { s.portm with pend := some m } }) ∧
      (¬ bad → s.portm.run = none → ∃ t, exec (.portmTransferStart c v) s = .next t ∧ t.portm.run = some m ∧
        t.portm.pend = none ∧ t.portm.err = s.portm.err ∧
        t.portm.held = (if s.portm.held = some m.sel then s.portm.held else none))) ∧
    (∀ v : Word, bit v 14 = false → exec (.portmSelectRelease v) s = .next { s with portm := { s.portm with held := none } }) ∧
    (∀ inp, s.portm.run = none → exec (.portmTransferEnd inp) s = .next s) ∧
    (∀ inp m, s.memOk → s.portm.run = some m → m.rx.toNat + (m.len.toNat + 15) / 16 ≤ 0x800000 →
      let n := (m.len.toNat + 15) / 16
      ∃ t, exec (.portmTransferEnd inp) s = .next t ∧ t.portm.run = s.portm.pend ∧ t.portm.pend = none ∧
        (s.portm.pend = none → t.portm.held = if m.hold then some m.sel else none) ∧
        (m.rxOff = false → (∀ i, i < n → bankOf (m.rx.toNat + i) ∉ s.portm.lost → ∀ b, b < 16 →
            bit (t.rd (m.rx.toNat + i)) b = (bit (inp.getD i 0) b && decide (16 * i + 15 - b < m.len.toNat))) ∧
          (∀ i, i < n → bankOf (m.rx.toNat + i) ∈ s.portm.lost → t.rd (m.rx.toNat + i) = s.rd (m.rx.toNat + i)) ∧
          SramFrame s t m.rx.toNat n) ∧
        (s.portm.lost ≠ [] → m.txOff = false → t.portm.lastOut = maskInput m.len.toNat s.portm.early) ∧
        t.portm.lost = [] ∧ t.portm.early = [] ∧
        (m.rxOff = true → ∀ a, t.rd a = s.rd a))

/-- R8, R287, R295, R296, R298, R301, R303, R304, R306 to R308: lines into the buffers, commands begun, responses and
events sent. The order of a line's errors is the model's reading (log entries 43 and 44). -/
def Obligations.LinesAndEvents : Prop :=
  (∀ (limit n k : Nat) (out : List OutLine),
    let keep (o : OutLine) : Bool := o.sent != 0 || !(o.cls == some .rpt || o.cls == some .log || o.cls == some .cal)
    (freeRoom limit n k out).Sublist out ∧ (freeRoom limit n k out).filter keep = out.filter keep ∧
      (outChars out + n ≤ limit → freeRoom limit n k out = out)) ∧
  ∀ s : State,
    (∀ p, (s.lines p).done = [] → exec (.lineComplete p) s = .next s) ∧
    (∀ p line long bad rest, (s.lines p).done = (line, long, bad) :: rest →
      let l := s.lines p
      let tag := if l.gen then (tagOf line).getD "" else ""
      (s.busy = true → ∃ t, exec (.lineComplete p) s = .next t ∧ (t.lines p).done = rest ∧ (t.lines p).waiting = l.waiting ∧
        Queued s t p [tagged tag "~BUSY"]) ∧
      (s.busy = false → long = true ∨ 4 ≤ l.waiting.length → ∃ t, exec (.lineComplete p) s = .next t ∧
        (t.lines p).done = rest ∧ (t.lines p).waiting = l.waiting ∧ Queued s t p [tagged tag "-ERR OVERFLOW"]) ∧
      (s.busy = false → long = false → l.waiting.length < 4 → ∃ t, exec (.lineComplete p) s = .next t ∧
        (t.lines p).done = rest ∧ (t.lines p).waiting = l.waiting ++ [(line, bad)] ∧ (t.lines p).out = l.out)) ∧
    (s.mayTake = false → exec .lineTake s = .next s) ∧
    (∀ p line bad r, s.mayTake = true →
      (portsAfter s.interp.lastPort).find? (fun q => !(s.lines q).waiting.isEmpty) = some p →
      (s.lines p).waiting = (line, bad) :: r →
      let u (c : CurLine) : State :=
        { s.setLines p { s.lines p with waiting := r } with interp := { s.interp with lastPort := p, cur := some c } }
      let now (c : CurLine) (fin : String) : Prop := ∃ t, exec .lineTake s = .next t ∧ OnlyLines (u c) t ∧ Said (u c) t [] fin
      ((s.lines p).gen = true → tagOf line = none → now ⟨p, true, "", line⟩ "-ERR SYNTAX") ∧
      (∀ tag text crc, (s.lines p).gen = true → tagOf line = some tag → bad = false → genParts tag line = some (text, crc) →
        (crc ≠ (crc16 0xFFFF (strBytes (String.ofList text))).toNat → now ⟨p, true, tag, line⟩ "-ERR CRC") ∧
        (crc = (crc16 0xFFFF (strBytes (String.ofList text))).toNat → s.safe.on = false →
          (∀ e, parseLine false allForms (text.drop tag.length) = .error e → now ⟨p, true, tag, line⟩ ("-ERR " ++ e)) ∧
          (∀ f a g, parseLine false allForms (text.drop tag.length) = .ok (f, a) → f.job a = some (.run g) →
            exec .lineTake s = g (u ⟨p, true, tag, line⟩)))) ∧
      ((s.lines p).gen = false → s.safe.on = false →
        (∀ e, parseLine true allForms line.toList = .error e → now ⟨p, false, "", line⟩ ("-ERR " ++ e)) ∧
        (∀ f a g, parseLine true allForms line.toList = .ok (f, a) → f.job a = some (.run g) →
          exec .lineTake s = g (u ⟨p, false, "", line⟩)))) ∧
    ((∀ x ∈ s.interp.lines, 16224 < (s.lines x.1).used + s.lineChars x.1 x.2.text) → exec .responseLineEnqueue s = .next s) ∧
    (∀ p o r, s.interp.lines = (p, o) :: r → o.set = none → s.interp.wait = none →
      (s.lines p).used + s.lineChars p o.text ≤ 16224 → ∃ t, exec .responseLineEnqueue s = .next t ∧ t.interp.lines = r ∧
        (t.lines p).out.map (·.text) = (s.lines p).out.map (·.text) ++ [s.wrapEcho p (lineText (s.lines p).gen o.text)] ∧
        ∀ q, q ≠ p → t.lines q = s.lines q) ∧
    (∀ x r, s.nextFit [] s.interp.lines = some (x, r) → x.2.set = none → s.interp.wait = none →
      s.interp.lines.find? (fun y => y.1 == x.1) = some x ∧ (x :: r).Perm s.interp.lines ∧
      ∃ t, exec .responseLineEnqueue s = .next t ∧ t.interp.lines = r ∧
        (t.lines x.1).out.map (·.text) = (s.lines x.1).out.map (·.text) ++
          [s.wrapEcho x.1 (lineText (s.lines x.1).gen x.2.text)] ∧
        (x.2.ends = true → t.interp.long = none ∧ t.ports.sbBusy = false)) ∧
    (s.interp.long = none → exec .longOperationEnd s = .next s) ∧
    (∀ o, s.interp.long = some o → (o.fin = none → exec .longOperationEnd s = .next s) ∧
      (∀ fin, o.fin = some fin →
        let line := tagged o.cur.tag fin
        let room := (s.lines o.cur.port).used + s.lineChars o.cur.port line ≤ 16224 ∧ ∀ x ∈ s.interp.lines, x.1 ≠ o.cur.port
        (room → ∃ t, exec .longOperationEnd s = .next t ∧ t.interp.long = none ∧ t.ports.sbBusy = false ∧
          Queued s t o.cur.port [line]) ∧
        (¬ room → ∃ t, exec .longOperationEnd s = .next t ∧ t.interp.long = some { o with fin := none, given := true } ∧
          t.busy = true ∧ t.ports = s.ports ∧
          ∃ w : OutLine, w.text = line ∧ w.ends = true ∧ t.interp.lines = s.interp.lines ++ [(o.cur.port, w)]))) ∧
    (∀ cls kind pairs, s.afw.ready = false → s.safe.on = false → exec (.eventEnqueue cls kind pairs) s = .next s) ∧
    (∀ cls kind pairs, s.safe.on = true → cls ≠ .alarm → safeSends cls kind = false →
      exec (.eventEnqueue cls kind pairs) s = .next s) ∧
    (∀ pairs, s.afw.ready = true → s.ecc.ue = false → exec (.eventEnqueue .alarm "ECC" pairs) s = .next s) ∧
    (∀ pairs, s.afw.ready = true → s.safe.on = false → s.ecc.ue = true → ∃ t, exec (.eventEnqueue .alarm "ECC" pairs) s = .next t ∧
      t.ecc = { s.ecc with ue := false } ∧ ∃ e, t.afw.log.getLast? = some e ∧
        e.pairs = kv "kind" "ECC" ++ kvH "addr" 6 s.ecc.uaddr.toNat) ∧
    (∀ cls kind pairs, s.afw.ready = true → s.safe.on = false → (cls = .alarm → kind ≠ "ECC") →
      let ps := if cls = .alarm then kv "kind" kind ++ pairs else pairs
      let body := if cls = .log then "!LOG" ++ kvN "seq" s.afw.logNext ++ kv "kind" kind ++ pairs else evName cls ++ ps
      ∃ t, exec (.eventEnqueue cls kind pairs) s = .next t ∧
      (s.memOk → ∀ a, logArea a = false → t.rd a = s.rd a) ∧ (cls = .safe ∨ cls = .rpt → t.sram = s.sram) ∧
      (cls ≠ .safe → cls ≠ .rpt → t.afw.logNext = s.afw.logNext + 1 ∧
        ∃ e, t.afw.log.getLast? = some e ∧ e.seqNo = s.afw.logNext ∧ e.frame = s.seq.frame ∧ e.pairs = ps) ∧
      (cls = .rpt → t.afw = s.afw) ∧
      (∀ p, cls ≠ .ready → cls ≠ .safe → cls ∉ (s.lines p).subs → (t.lines p).out = (s.lines p).out) ∧
      (∀ p, let l := s.lines p
        (cls = .ready ∨ cls = .safe ∨ (cls ∈ l.subs ∧ outChars l.out + s.lineChars p body ≤ 15360)) →
          ∃ o, (t.lines p).out = l.out ++ [o] ∧ o.cls = some cls ∧ o.text = s.wrapEcho p (lineText l.gen body)) ∧
      (∀ p, let l := s.lines p
        let n := s.lineChars p body
        cls = .disp ∨ cls = .alarm → cls ∈ l.subs → 15360 < outChars (freeRoom 15360 n l.out.length l.out) + n →
          (t.lines p).subs = [] ∧ (t.lines p).lapsed = true))

/-! ### Reset and what every step keeps -/

/-- R439 and R443: the registers right after reset, the table of the register index; the memories list nothing and no
command waits. Queue, memories and held cores at reset are the model's choice where the manual is silent (log entries
1 and 13), and the reset value of RXW_MDATA is read with log entry 39. -/
def Obligations.ResetState : Prop :=
  (∀ c, c.isT = false → ∀ x ∈ resetValues, ∀ a, x.1 ≤ a → a ≤ x.2.1 → State.reset.regValue c a = x.2.2) ∧
    State.reset.memOk ∧ State.reset.tablesOk ∧ State.reset.sram.cells = [] ∧ State.reset.pending = [] ∧ State.reset.gate.single ∧
    (∀ c, (State.reset.core c).run ≠ .running)

/-- One-time programmable items never change once programmed, and the anti-rollback counter never falls, whatever command
a step runs (R176, R273, R282, R283). -/
def Obligations.OtpNeverChanges : Prop :=
  ∀ s t : State, step s = .next t → OtpKept s t

/-- Every step keeps the canonical form of the ledger SRAM, of every core's local RAM, of the lane registers and of the
synthesiser table. -/
def Obligations.MemoryStaysCanonical : Prop :=
  ∀ s t : State, step s = .next t → (s.memOk → t.memOk) ∧ (s.tablesOk → t.tablesOk)
end

