-- ==== Sys2Proof/Laws/Build.lean ====
section
/-! SUPPORT. What building, rebuilding and taking out a slot's packet can change (R74, R202, R460). -/

namespace Sys2Proof.Machine

open Sys2Proof

theorem OnlyDown.refl (s : State) : OnlyDown s s := rfl

theorem OnlyDown.trans {s t u : State} (h : OnlyDown s t) (g : OnlyDown t u) : OnlyDown s u := by
  unfold OnlyDown at h g ⊢
  rw [g, h]

theorem OnlyDown.withAfw {s t : State} (h : OnlyDown s t) (a : Afw) : OnlyDown s { t with afw := a } := h.trans rfl

theorem State.wr_onlyDown (s : State) (a : Nat) (v : Word) : OnlyDown s (s.wr a v) := by
  unfold State.wr
  split <;> rfl

theorem State.wrPair_onlyDown (s : State) (a : Nat) (lo hi : Word) : OnlyDown s (s.wrPair a lo hi) := by
  unfold State.wrPair
  split
  · exact ((s.wr_onlyDown a lo).trans ((s.wr a lo).wr_onlyDown (a + 1) hi)).trans rfl
  · rfl

theorem State.wrN_onlyDown (s : State) (a : Nat) (ws : List Word) : OnlyDown s (s.wrN a ws) := by
  fun_induction State.wrN s a ws with
  | case1 => rfl
  | case2 => exact State.wr_onlyDown ..
  | case3 _ _ _ _ _ _ ih => exact (State.wrPair_onlyDown ..).trans ih
  | case4 _ _ _ _ _ _ ih => exact (State.wr_onlyDown ..).trans ih

theorem State.armSet_onlyDown (s : State) (v : Word) : OnlyDown s (s.armSet v) := by
  unfold State.armSet
  split <;> rfl

theorem State.armClr_onlyDown (s : State) (v : Word) : OnlyDown s (s.armClr v) := rfl

theorem State.firstBeaconDue_onlyDown (s : State) (g : Nat) : OnlyDown s (s.firstBeaconDue g) := by
  unfold State.firstBeaconDue
  split <;> rfl

/-- Building a slot writes its buffer, its arm bit and what AFW records of its packet, and nothing else. -/
theorem State.buildSlot_onlyDown (s : State) (n : Nat) : OnlyDown s (s.buildSlot n) := by
  have first (c : Prop) [Decidable c] (g : Nat) : OnlyDown s (if c then s.firstBeaconDue g else s) := by
    split
    · exact s.firstBeaconDue_onlyDown g
    · rfl
  unfold State.buildSlot
  simp only
  generalize hs : (if n = 0 ∧ (planEntry (s.planFor (s.nextFrame n)) n).en = true ∧ s.mayBuild roleB false = true ∧
      keyPresent s.bkey = true then s.firstBeaconDue (s.nextFrame n) else s) = t
  refine OnlyDown.trans (t := t) (hs ▸ first ..) ?_
  split
  · split
    · split
      · exact (((OnlyDown.refl t).withAfw _).trans (State.wrN_onlyDown ..)).trans (State.armSet_onlyDown ..)
      · exact State.armClr_onlyDown ..
    · exact State.armClr_onlyDown ..
  · split
    · rfl
    · refine OnlyDown.trans ?_ (State.armSet_onlyDown ..)
      exact (((OnlyDown.refl t).withAfw _).trans (State.wrN_onlyDown ..)).withAfw _

theorem State.refreshAt_onlyDown (s : State) (x : Nat × Nat) : OnlyDown s (s.refreshAt x) := by
  unfold State.refreshAt State.refresh
  split
  · split
    · exact s.buildSlot_onlyDown x.2
    · rfl
  · rfl

theorem State.withdraw_onlyDown (s : State) (x : Nat × Nat) : OnlyDown s (s.withdraw x) := by
  unfold State.withdraw
  split <;> rfl

theorem State.redo_onlyDown (s : State) (x : Nat × Nat) : OnlyDown s (s.redo x) :=
  (s.refreshAt_onlyDown x).trans (State.withdraw_onlyDown _ x)

theorem State.foldl_onlyDown {α : Type} (f : State → α → State) (h : ∀ t x, OnlyDown t (f t x)) (l : List α) (s : State) :
    OnlyDown s (l.foldl f s) := by
  induction l generalizing s with
  | nil => rfl
  | cons x l ih => exact (h s x).trans (ih _)

/-- Without a current broadcast key, only packets that stand are taken out (R202). -/
theorem State.noBkey_onlyDown (s : State) : OnlyDown s s.noBkey := by
  unfold State.noBkey
  split
  · rfl
  · exact State.foldl_onlyDown _ (fun t (b : Built) => t.redo_onlyDown (b.frame, b.slot)) _ s

/-- With one, nothing happens. -/
theorem State.noBkey_present {s : State} (h : keyPresent s.bkey = true) : s.noBkey = s := by
  unfold State.noBkey
  rw [if_pos h]

end Sys2Proof.Machine
end

