-- ==== Sys2Proof/Laws/State.lean ====
section
/-! SUPPORT. What each named update of the state leaves alone, field by field, and how reads of a core, a queue and a
port see it. -/

namespace Sys2Proof.Machine

open Sys2Proof

/-! ### Cores -/

@[simp] theorem State.core_setCore (s : State) (c : CoreId) (k : Core) : (s.setCore c k).core c = k := by
  simp [State.core, State.setCore, Vector.get_eq_getElem]

theorem CoreId.idx_inj {c d : CoreId} (h : c.idx = d.idx) : c = d := by
  cases c <;> cases d <;> first | rfl | (exact absurd h (by decide))

theorem State.core_setCore_ne (s : State) {c d : CoreId} (k : Core) (h : c ≠ d) : (s.setCore c k).core d = s.core d := by
  have hn : c.idx.val ≠ d.idx.val := fun e => h (CoreId.idx_inj (Fin.ext e))
  simp only [State.core, State.setCore, Vector.get_eq_getElem]
  exact Vector.getElem_set_ne _ _ hn

@[simp] theorem State.setCore_setCore (s : State) (c : CoreId) (k q : Core) :
    (s.setCore c k).setCore c q = s.setCore c q := by
  simp [State.setCore]

@[simp] theorem State.setCore_core (s : State) (c : CoreId) : s.setCore c (s.core c) = s := by
  simp [State.setCore, State.core, Vector.get_eq_getElem]

theorem State.modCore_eq (s : State) (c : CoreId) (f : Core → Core) : s.modCore c f = s.setCore c (f (s.core c)) := rfl

@[simp] theorem State.core_modCore (s : State) (c : CoreId) (f : Core → Core) : (s.modCore c f).core c = f (s.core c) := by
  simp [State.modCore]

@[simp] theorem State.queue_setQueue (s : State) (n : BitVec 5) (q : Queue) : (s.setQueue n q).queue n = q := by
  simp [State.queue, State.setQueue, Vector.get_eq_getElem]

@[simp] theorem State.lines_setLines (s : State) (p : MPort) (l : Lines) : (s.setLines p l).lines p = l := by
  cases p <;> rfl

theorem State.lines_setLines_ne (s : State) {p q : MPort} (l : Lines) (h : p ≠ q) :
    (s.setLines p l).lines q = s.lines q := by
  cases p <;> cases q <;> first | rfl | exact absurd rfl h

/-! ### `setCore` -/

@[simp] theorem State.setCore_clk (s : State) (c : CoreId) (k : Core) : (s.setCore c k).clk = s.clk := rfl
@[simp] theorem State.setCore_seq (s : State) (c : CoreId) (k : Core) : (s.setCore c k).seq = s.seq := rfl
@[simp] theorem State.setCore_rxw (s : State) (c : CoreId) (k : Core) : (s.setCore c k).rxw = s.rxw := rfl
@[simp] theorem State.setCore_lane (s : State) (c : CoreId) (k : Core) : (s.setCore c k).lane = s.lane := rfl
@[simp] theorem State.setCore_tx (s : State) (c : CoreId) (k : Core) : (s.setCore c k).tx = s.tx := rfl
@[simp] theorem State.setCore_syn (s : State) (c : CoreId) (k : Core) : (s.setCore c k).syn = s.syn := rfl
@[simp] theorem State.setCore_gate (s : State) (c : CoreId) (k : Core) : (s.setCore c k).gate = s.gate := rfl
@[simp] theorem State.setCore_cal (s : State) (c : CoreId) (k : Core) : (s.setCore c k).cal = s.cal := rfl
@[simp] theorem State.setCore_sys (s : State) (c : CoreId) (k : Core) : (s.setCore c k).sys = s.sys := rfl
@[simp] theorem State.setCore_aon (s : State) (c : CoreId) (k : Core) : (s.setCore c k).aon = s.aon := rfl
@[simp] theorem State.setCore_otp (s : State) (c : CoreId) (k : Core) : (s.setCore c k).otp = s.otp := rfl
@[simp] theorem State.setCore_boot (s : State) (c : CoreId) (k : Core) : (s.setCore c k).boot = s.boot := rfl
@[simp] theorem State.setCore_img (s : State) (c : CoreId) (k : Core) : (s.setCore c k).img = s.img := rfl
@[simp] theorem State.setCore_pwr (s : State) (c : CoreId) (k : Core) : (s.setCore c k).pwr = s.pwr := rfl
@[simp] theorem State.setCore_que (s : State) (c : CoreId) (k : Core) : (s.setCore c k).que = s.que := rfl
@[simp] theorem State.setCore_ecc (s : State) (c : CoreId) (k : Core) : (s.setCore c k).ecc = s.ecc := rfl
@[simp] theorem State.setCore_porta (s : State) (c : CoreId) (k : Core) : (s.setCore c k).porta = s.porta := rfl
@[simp] theorem State.setCore_portb (s : State) (c : CoreId) (k : Core) : (s.setCore c k).portb = s.portb := rfl
@[simp] theorem State.setCore_ports (s : State) (c : CoreId) (k : Core) : (s.setCore c k).ports = s.ports := rfl
@[simp] theorem State.setCore_portm (s : State) (c : CoreId) (k : Core) : (s.setCore c k).portm = s.portm := rfl
@[simp] theorem State.setCore_timep (s : State) (c : CoreId) (k : Core) : (s.setCore c k).timep = s.timep := rfl
@[simp] theorem State.setCore_pins (s : State) (c : CoreId) (k : Core) : (s.setCore c k).pins = s.pins := rfl
@[simp] theorem State.setCore_sram (s : State) (c : CoreId) (k : Core) : (s.setCore c k).sram = s.sram := rfl
@[simp] theorem State.setCore_afw (s : State) (c : CoreId) (k : Core) : (s.setCore c k).afw = s.afw := rfl
@[simp] theorem State.setCore_interp (s : State) (c : CoreId) (k : Core) : (s.setCore c k).interp = s.interp := rfl
@[simp] theorem State.setCore_safe (s : State) (c : CoreId) (k : Core) : (s.setCore c k).safe = s.safe := rfl
@[simp] theorem State.setCore_modeFlash (s : State) (c : CoreId) (k : Core) : (s.setCore c k).modeFlash = s.modeFlash := rfl
@[simp] theorem State.setCore_district (s : State) (c : CoreId) (k : Core) : (s.setCore c k).district = s.district := rfl
@[simp] theorem State.setCore_free (s : State) (c : CoreId) (k : Core) : (s.setCore c k).free = s.free := rfl
@[simp] theorem State.setCore_pending (s : State) (c : CoreId) (k : Core) : (s.setCore c k).pending = s.pending := rfl

/-! ### `modCore` -/

@[simp] theorem State.modCore_clk (s : State) (c : CoreId) (f : Core → Core) : (s.modCore c f).clk = s.clk := rfl
@[simp] theorem State.modCore_seq (s : State) (c : CoreId) (f : Core → Core) : (s.modCore c f).seq = s.seq := rfl
@[simp] theorem State.modCore_rxw (s : State) (c : CoreId) (f : Core → Core) : (s.modCore c f).rxw = s.rxw := rfl
@[simp] theorem State.modCore_lane (s : State) (c : CoreId) (f : Core → Core) : (s.modCore c f).lane = s.lane := rfl
@[simp] theorem State.modCore_tx (s : State) (c : CoreId) (f : Core → Core) : (s.modCore c f).tx = s.tx := rfl
@[simp] theorem State.modCore_syn (s : State) (c : CoreId) (f : Core → Core) : (s.modCore c f).syn = s.syn := rfl
@[simp] theorem State.modCore_gate (s : State) (c : CoreId) (f : Core → Core) : (s.modCore c f).gate = s.gate := rfl
@[simp] theorem State.modCore_cal (s : State) (c : CoreId) (f : Core → Core) : (s.modCore c f).cal = s.cal := rfl
@[simp] theorem State.modCore_sys (s : State) (c : CoreId) (f : Core → Core) : (s.modCore c f).sys = s.sys := rfl
@[simp] theorem State.modCore_aon (s : State) (c : CoreId) (f : Core → Core) : (s.modCore c f).aon = s.aon := rfl
@[simp] theorem State.modCore_otp (s : State) (c : CoreId) (f : Core → Core) : (s.modCore c f).otp = s.otp := rfl
@[simp] theorem State.modCore_boot (s : State) (c : CoreId) (f : Core → Core) : (s.modCore c f).boot = s.boot := rfl
@[simp] theorem State.modCore_img (s : State) (c : CoreId) (f : Core → Core) : (s.modCore c f).img = s.img := rfl
@[simp] theorem State.modCore_pwr (s : State) (c : CoreId) (f : Core → Core) : (s.modCore c f).pwr = s.pwr := rfl
@[simp] theorem State.modCore_que (s : State) (c : CoreId) (f : Core → Core) : (s.modCore c f).que = s.que := rfl
@[simp] theorem State.modCore_ecc (s : State) (c : CoreId) (f : Core → Core) : (s.modCore c f).ecc = s.ecc := rfl
@[simp] theorem State.modCore_porta (s : State) (c : CoreId) (f : Core → Core) : (s.modCore c f).porta = s.porta := rfl
@[simp] theorem State.modCore_portb (s : State) (c : CoreId) (f : Core → Core) : (s.modCore c f).portb = s.portb := rfl
@[simp] theorem State.modCore_ports (s : State) (c : CoreId) (f : Core → Core) : (s.modCore c f).ports = s.ports := rfl
@[simp] theorem State.modCore_portm (s : State) (c : CoreId) (f : Core → Core) : (s.modCore c f).portm = s.portm := rfl
@[simp] theorem State.modCore_timep (s : State) (c : CoreId) (f : Core → Core) : (s.modCore c f).timep = s.timep := rfl
@[simp] theorem State.modCore_pins (s : State) (c : CoreId) (f : Core → Core) : (s.modCore c f).pins = s.pins := rfl
@[simp] theorem State.modCore_sram (s : State) (c : CoreId) (f : Core → Core) : (s.modCore c f).sram = s.sram := rfl
@[simp] theorem State.modCore_afw (s : State) (c : CoreId) (f : Core → Core) : (s.modCore c f).afw = s.afw := rfl
@[simp] theorem State.modCore_interp (s : State) (c : CoreId) (f : Core → Core) : (s.modCore c f).interp = s.interp := rfl
@[simp] theorem State.modCore_safe (s : State) (c : CoreId) (f : Core → Core) : (s.modCore c f).safe = s.safe := rfl
@[simp] theorem State.modCore_modeFlash (s : State) (c : CoreId) (f : Core → Core) : (s.modCore c f).modeFlash = s.modeFlash := rfl
@[simp] theorem State.modCore_district (s : State) (c : CoreId) (f : Core → Core) : (s.modCore c f).district = s.district := rfl
@[simp] theorem State.modCore_free (s : State) (c : CoreId) (f : Core → Core) : (s.modCore c f).free = s.free := rfl
@[simp] theorem State.modCore_pending (s : State) (c : CoreId) (f : Core → Core) : (s.modCore c f).pending = s.pending := rfl

/-! ### `setQueue` -/

@[simp] theorem State.setQueue_clk (s : State) (n : BitVec 5) (q : Queue) : (s.setQueue n q).clk = s.clk := rfl
@[simp] theorem State.setQueue_seq (s : State) (n : BitVec 5) (q : Queue) : (s.setQueue n q).seq = s.seq := rfl
@[simp] theorem State.setQueue_rxw (s : State) (n : BitVec 5) (q : Queue) : (s.setQueue n q).rxw = s.rxw := rfl
@[simp] theorem State.setQueue_lane (s : State) (n : BitVec 5) (q : Queue) : (s.setQueue n q).lane = s.lane := rfl
@[simp] theorem State.setQueue_tx (s : State) (n : BitVec 5) (q : Queue) : (s.setQueue n q).tx = s.tx := rfl
@[simp] theorem State.setQueue_syn (s : State) (n : BitVec 5) (q : Queue) : (s.setQueue n q).syn = s.syn := rfl
@[simp] theorem State.setQueue_gate (s : State) (n : BitVec 5) (q : Queue) : (s.setQueue n q).gate = s.gate := rfl
@[simp] theorem State.setQueue_cal (s : State) (n : BitVec 5) (q : Queue) : (s.setQueue n q).cal = s.cal := rfl
@[simp] theorem State.setQueue_cores (s : State) (n : BitVec 5) (q : Queue) : (s.setQueue n q).cores = s.cores := rfl
@[simp] theorem State.setQueue_sys (s : State) (n : BitVec 5) (q : Queue) : (s.setQueue n q).sys = s.sys := rfl
@[simp] theorem State.setQueue_aon (s : State) (n : BitVec 5) (q : Queue) : (s.setQueue n q).aon = s.aon := rfl
@[simp] theorem State.setQueue_otp (s : State) (n : BitVec 5) (q : Queue) : (s.setQueue n q).otp = s.otp := rfl
@[simp] theorem State.setQueue_boot (s : State) (n : BitVec 5) (q : Queue) : (s.setQueue n q).boot = s.boot := rfl
@[simp] theorem State.setQueue_img (s : State) (n : BitVec 5) (q : Queue) : (s.setQueue n q).img = s.img := rfl
@[simp] theorem State.setQueue_pwr (s : State) (n : BitVec 5) (q : Queue) : (s.setQueue n q).pwr = s.pwr := rfl
@[simp] theorem State.setQueue_ecc (s : State) (n : BitVec 5) (q : Queue) : (s.setQueue n q).ecc = s.ecc := rfl
@[simp] theorem State.setQueue_porta (s : State) (n : BitVec 5) (q : Queue) : (s.setQueue n q).porta = s.porta := rfl
@[simp] theorem State.setQueue_portb (s : State) (n : BitVec 5) (q : Queue) : (s.setQueue n q).portb = s.portb := rfl
@[simp] theorem State.setQueue_ports (s : State) (n : BitVec 5) (q : Queue) : (s.setQueue n q).ports = s.ports := rfl
@[simp] theorem State.setQueue_portm (s : State) (n : BitVec 5) (q : Queue) : (s.setQueue n q).portm = s.portm := rfl
@[simp] theorem State.setQueue_timep (s : State) (n : BitVec 5) (q : Queue) : (s.setQueue n q).timep = s.timep := rfl
@[simp] theorem State.setQueue_pins (s : State) (n : BitVec 5) (q : Queue) : (s.setQueue n q).pins = s.pins := rfl
@[simp] theorem State.setQueue_sram (s : State) (n : BitVec 5) (q : Queue) : (s.setQueue n q).sram = s.sram := rfl
@[simp] theorem State.setQueue_afw (s : State) (n : BitVec 5) (q : Queue) : (s.setQueue n q).afw = s.afw := rfl
@[simp] theorem State.setQueue_interp (s : State) (n : BitVec 5) (q : Queue) : (s.setQueue n q).interp = s.interp := rfl
@[simp] theorem State.setQueue_safe (s : State) (n : BitVec 5) (q : Queue) : (s.setQueue n q).safe = s.safe := rfl
@[simp] theorem State.setQueue_modeFlash (s : State) (n : BitVec 5) (q : Queue) : (s.setQueue n q).modeFlash = s.modeFlash := rfl
@[simp] theorem State.setQueue_district (s : State) (n : BitVec 5) (q : Queue) : (s.setQueue n q).district = s.district := rfl
@[simp] theorem State.setQueue_free (s : State) (n : BitVec 5) (q : Queue) : (s.setQueue n q).free = s.free := rfl
@[simp] theorem State.setQueue_pending (s : State) (n : BitVec 5) (q : Queue) : (s.setQueue n q).pending = s.pending := rfl

/-! ### `qpush` -/

@[simp] theorem State.qpush_clk (s : State) (n : BitVec 5) (v : Word) : (s.qpush n v).clk = s.clk := rfl
@[simp] theorem State.qpush_seq (s : State) (n : BitVec 5) (v : Word) : (s.qpush n v).seq = s.seq := rfl
@[simp] theorem State.qpush_rxw (s : State) (n : BitVec 5) (v : Word) : (s.qpush n v).rxw = s.rxw := rfl
@[simp] theorem State.qpush_lane (s : State) (n : BitVec 5) (v : Word) : (s.qpush n v).lane = s.lane := rfl
@[simp] theorem State.qpush_tx (s : State) (n : BitVec 5) (v : Word) : (s.qpush n v).tx = s.tx := rfl
@[simp] theorem State.qpush_syn (s : State) (n : BitVec 5) (v : Word) : (s.qpush n v).syn = s.syn := rfl
@[simp] theorem State.qpush_gate (s : State) (n : BitVec 5) (v : Word) : (s.qpush n v).gate = s.gate := rfl
@[simp] theorem State.qpush_cal (s : State) (n : BitVec 5) (v : Word) : (s.qpush n v).cal = s.cal := rfl
@[simp] theorem State.qpush_cores (s : State) (n : BitVec 5) (v : Word) : (s.qpush n v).cores = s.cores := rfl
@[simp] theorem State.qpush_sys (s : State) (n : BitVec 5) (v : Word) : (s.qpush n v).sys = s.sys := rfl
@[simp] theorem State.qpush_aon (s : State) (n : BitVec 5) (v : Word) : (s.qpush n v).aon = s.aon := rfl
@[simp] theorem State.qpush_otp (s : State) (n : BitVec 5) (v : Word) : (s.qpush n v).otp = s.otp := rfl
@[simp] theorem State.qpush_boot (s : State) (n : BitVec 5) (v : Word) : (s.qpush n v).boot = s.boot := rfl
@[simp] theorem State.qpush_img (s : State) (n : BitVec 5) (v : Word) : (s.qpush n v).img = s.img := rfl
@[simp] theorem State.qpush_pwr (s : State) (n : BitVec 5) (v : Word) : (s.qpush n v).pwr = s.pwr := rfl
@[simp] theorem State.qpush_ecc (s : State) (n : BitVec 5) (v : Word) : (s.qpush n v).ecc = s.ecc := rfl
@[simp] theorem State.qpush_porta (s : State) (n : BitVec 5) (v : Word) : (s.qpush n v).porta = s.porta := rfl
@[simp] theorem State.qpush_portb (s : State) (n : BitVec 5) (v : Word) : (s.qpush n v).portb = s.portb := rfl
@[simp] theorem State.qpush_ports (s : State) (n : BitVec 5) (v : Word) : (s.qpush n v).ports = s.ports := rfl
@[simp] theorem State.qpush_portm (s : State) (n : BitVec 5) (v : Word) : (s.qpush n v).portm = s.portm := rfl
@[simp] theorem State.qpush_timep (s : State) (n : BitVec 5) (v : Word) : (s.qpush n v).timep = s.timep := rfl
@[simp] theorem State.qpush_pins (s : State) (n : BitVec 5) (v : Word) : (s.qpush n v).pins = s.pins := rfl
@[simp] theorem State.qpush_sram (s : State) (n : BitVec 5) (v : Word) : (s.qpush n v).sram = s.sram := rfl
@[simp] theorem State.qpush_afw (s : State) (n : BitVec 5) (v : Word) : (s.qpush n v).afw = s.afw := rfl
@[simp] theorem State.qpush_interp (s : State) (n : BitVec 5) (v : Word) : (s.qpush n v).interp = s.interp := rfl
@[simp] theorem State.qpush_safe (s : State) (n : BitVec 5) (v : Word) : (s.qpush n v).safe = s.safe := rfl
@[simp] theorem State.qpush_modeFlash (s : State) (n : BitVec 5) (v : Word) : (s.qpush n v).modeFlash = s.modeFlash := rfl
@[simp] theorem State.qpush_district (s : State) (n : BitVec 5) (v : Word) : (s.qpush n v).district = s.district := rfl
@[simp] theorem State.qpush_free (s : State) (n : BitVec 5) (v : Word) : (s.qpush n v).free = s.free := rfl
@[simp] theorem State.qpush_pending (s : State) (n : BitVec 5) (v : Word) : (s.qpush n v).pending = s.pending := rfl

/-! ### `wakeBank` -/

@[simp] theorem State.wakeBank_clk (s : State) (b : Nat) : (s.wakeBank b).clk = s.clk := rfl
@[simp] theorem State.wakeBank_seq (s : State) (b : Nat) : (s.wakeBank b).seq = s.seq := rfl
@[simp] theorem State.wakeBank_rxw (s : State) (b : Nat) : (s.wakeBank b).rxw = s.rxw := rfl
@[simp] theorem State.wakeBank_lane (s : State) (b : Nat) : (s.wakeBank b).lane = s.lane := rfl
@[simp] theorem State.wakeBank_tx (s : State) (b : Nat) : (s.wakeBank b).tx = s.tx := rfl
@[simp] theorem State.wakeBank_syn (s : State) (b : Nat) : (s.wakeBank b).syn = s.syn := rfl
@[simp] theorem State.wakeBank_gate (s : State) (b : Nat) : (s.wakeBank b).gate = s.gate := rfl
@[simp] theorem State.wakeBank_cal (s : State) (b : Nat) : (s.wakeBank b).cal = s.cal := rfl
@[simp] theorem State.wakeBank_cores (s : State) (b : Nat) : (s.wakeBank b).cores = s.cores := rfl
@[simp] theorem State.wakeBank_sys (s : State) (b : Nat) : (s.wakeBank b).sys = s.sys := rfl
@[simp] theorem State.wakeBank_aon (s : State) (b : Nat) : (s.wakeBank b).aon = s.aon := rfl
@[simp] theorem State.wakeBank_otp (s : State) (b : Nat) : (s.wakeBank b).otp = s.otp := rfl
@[simp] theorem State.wakeBank_boot (s : State) (b : Nat) : (s.wakeBank b).boot = s.boot := rfl
@[simp] theorem State.wakeBank_img (s : State) (b : Nat) : (s.wakeBank b).img = s.img := rfl
@[simp] theorem State.wakeBank_que (s : State) (b : Nat) : (s.wakeBank b).que = s.que := rfl
@[simp] theorem State.wakeBank_ecc (s : State) (b : Nat) : (s.wakeBank b).ecc = s.ecc := rfl
@[simp] theorem State.wakeBank_porta (s : State) (b : Nat) : (s.wakeBank b).porta = s.porta := rfl
@[simp] theorem State.wakeBank_portb (s : State) (b : Nat) : (s.wakeBank b).portb = s.portb := rfl
@[simp] theorem State.wakeBank_ports (s : State) (b : Nat) : (s.wakeBank b).ports = s.ports := rfl
@[simp] theorem State.wakeBank_portm (s : State) (b : Nat) : (s.wakeBank b).portm = s.portm := rfl
@[simp] theorem State.wakeBank_timep (s : State) (b : Nat) : (s.wakeBank b).timep = s.timep := rfl
@[simp] theorem State.wakeBank_pins (s : State) (b : Nat) : (s.wakeBank b).pins = s.pins := rfl
@[simp] theorem State.wakeBank_sram (s : State) (b : Nat) : (s.wakeBank b).sram = s.sram := rfl
@[simp] theorem State.wakeBank_afw (s : State) (b : Nat) : (s.wakeBank b).afw = s.afw := rfl
@[simp] theorem State.wakeBank_interp (s : State) (b : Nat) : (s.wakeBank b).interp = s.interp := rfl
@[simp] theorem State.wakeBank_safe (s : State) (b : Nat) : (s.wakeBank b).safe = s.safe := rfl
@[simp] theorem State.wakeBank_modeFlash (s : State) (b : Nat) : (s.wakeBank b).modeFlash = s.modeFlash := rfl
@[simp] theorem State.wakeBank_district (s : State) (b : Nat) : (s.wakeBank b).district = s.district := rfl
@[simp] theorem State.wakeBank_free (s : State) (b : Nat) : (s.wakeBank b).free = s.free := rfl
@[simp] theorem State.wakeBank_pending (s : State) (b : Nat) : (s.wakeBank b).pending = s.pending := rfl

/-! ### `setLines` -/

@[simp] theorem State.setLines_clk (s : State) (p : MPort) (l : Lines) : (s.setLines p l).clk = s.clk := by cases p <;> rfl
@[simp] theorem State.setLines_seq (s : State) (p : MPort) (l : Lines) : (s.setLines p l).seq = s.seq := by cases p <;> rfl
@[simp] theorem State.setLines_rxw (s : State) (p : MPort) (l : Lines) : (s.setLines p l).rxw = s.rxw := by cases p <;> rfl
@[simp] theorem State.setLines_lane (s : State) (p : MPort) (l : Lines) : (s.setLines p l).lane = s.lane := by cases p <;> rfl
@[simp] theorem State.setLines_tx (s : State) (p : MPort) (l : Lines) : (s.setLines p l).tx = s.tx := by cases p <;> rfl
@[simp] theorem State.setLines_syn (s : State) (p : MPort) (l : Lines) : (s.setLines p l).syn = s.syn := by cases p <;> rfl
@[simp] theorem State.setLines_gate (s : State) (p : MPort) (l : Lines) : (s.setLines p l).gate = s.gate := by cases p <;> rfl
@[simp] theorem State.setLines_cal (s : State) (p : MPort) (l : Lines) : (s.setLines p l).cal = s.cal := by cases p <;> rfl
@[simp] theorem State.setLines_cores (s : State) (p : MPort) (l : Lines) : (s.setLines p l).cores = s.cores := by cases p <;> rfl
@[simp] theorem State.setLines_sys (s : State) (p : MPort) (l : Lines) : (s.setLines p l).sys = s.sys := by cases p <;> rfl
@[simp] theorem State.setLines_aon (s : State) (p : MPort) (l : Lines) : (s.setLines p l).aon = s.aon := by cases p <;> rfl
@[simp] theorem State.setLines_otp (s : State) (p : MPort) (l : Lines) : (s.setLines p l).otp = s.otp := by cases p <;> rfl
@[simp] theorem State.setLines_boot (s : State) (p : MPort) (l : Lines) : (s.setLines p l).boot = s.boot := by cases p <;> rfl
@[simp] theorem State.setLines_img (s : State) (p : MPort) (l : Lines) : (s.setLines p l).img = s.img := by cases p <;> rfl
@[simp] theorem State.setLines_pwr (s : State) (p : MPort) (l : Lines) : (s.setLines p l).pwr = s.pwr := by cases p <;> rfl
@[simp] theorem State.setLines_que (s : State) (p : MPort) (l : Lines) : (s.setLines p l).que = s.que := by cases p <;> rfl
@[simp] theorem State.setLines_ecc (s : State) (p : MPort) (l : Lines) : (s.setLines p l).ecc = s.ecc := by cases p <;> rfl
@[simp] theorem State.setLines_portm (s : State) (p : MPort) (l : Lines) : (s.setLines p l).portm = s.portm := by cases p <;> rfl
@[simp] theorem State.setLines_timep (s : State) (p : MPort) (l : Lines) : (s.setLines p l).timep = s.timep := by cases p <;> rfl
@[simp] theorem State.setLines_pins (s : State) (p : MPort) (l : Lines) : (s.setLines p l).pins = s.pins := by cases p <;> rfl
@[simp] theorem State.setLines_sram (s : State) (p : MPort) (l : Lines) : (s.setLines p l).sram = s.sram := by cases p <;> rfl
@[simp] theorem State.setLines_afw (s : State) (p : MPort) (l : Lines) : (s.setLines p l).afw = s.afw := by cases p <;> rfl
@[simp] theorem State.setLines_interp (s : State) (p : MPort) (l : Lines) : (s.setLines p l).interp = s.interp := by cases p <;> rfl
@[simp] theorem State.setLines_safe (s : State) (p : MPort) (l : Lines) : (s.setLines p l).safe = s.safe := by cases p <;> rfl
@[simp] theorem State.setLines_modeFlash (s : State) (p : MPort) (l : Lines) : (s.setLines p l).modeFlash = s.modeFlash := by cases p <;> rfl
@[simp] theorem State.setLines_district (s : State) (p : MPort) (l : Lines) : (s.setLines p l).district = s.district := by cases p <;> rfl
@[simp] theorem State.setLines_free (s : State) (p : MPort) (l : Lines) : (s.setLines p l).free = s.free := by cases p <;> rfl
@[simp] theorem State.setLines_pending (s : State) (p : MPort) (l : Lines) : (s.setLines p l).pending = s.pending := by cases p <;> rfl

end Sys2Proof.Machine
end

