-- ==== Sys2Proof/Laws/Facet.lean ====
section
/-! SUPPORT. The course of a Facet instruction on a core that is ready for it, and what a write of a general register
or an accumulator comes to. -/

namespace Sys2Proof.Machine

open Sys2Proof

/-- On a ready core the instruction's own operation decides. -/
theorem State.instr_ready {s : State} {c : CoreId} {sh : Shape} {n : Nat} (body : State → Done) (hn : sh.words = n)
    (h : s.ready c n) :
    s.instr c sh body = (match body s with
      | .ok t => .next (t.modCore c (Core.retire n none none))
      | .trap cause addr t => .next (t.trap c cause addr)) := by
  obtain ⟨⟨hr, hb, hp, _⟩, hf⟩ := h
  subst hn
  cases hT : c.isT
  · have hg : ∀ i ∈ (s.core c).fetched sh.words, i ∉ (s.core c).pramBad ∧ i ∉ (s.core c).pramSingle := by
      simpa [State.fetchOk, hT] using hf
    have h1 : ((s.core c).fetched sh.words).any (s.core c).pramBad.contains = false := by
      simpa using fun i hi => (hg i hi).1
    have h2 : ((s.core c).fetched sh.words).any (s.core c).pramSingle.contains = false := by
      simpa using fun i hi => (hg i hi).2
    simp only [State.instr, hT, h1, h2]
    simp [hr, hb, hp] <;> rfl
  · have hw : ¬ 0x21FF < (s.core c).pc.toNat + sh.words - 1 := by
      have : (s.core c).pc.toNat + sh.words ≤ 0x2200 := by simpa [State.fetchOk, hT] using hf
      omega
    simp only [State.instr, hT]
    simp [hr, hb, hp, hw] <;> rfl

/-- An operation on the core alone. -/
theorem State.alu_ready {s : State} {c : CoreId} {n : Nat} (f : Core → Core) (h : s.ready c n) :
    s.alu c n f = .next (s.setCore c ((f (s.core c)).retire n none none)) := by
  rw [State.alu, State.instr_ready (n := n) _ rfl h]
  simp [State.modCore]

theorem Core.rg_zero (k : Core) : k.rg 0 = 0 := rfl

/-- A write of a general register as later reads see it; G0 discards it. -/
theorem Core.rg_setG (k : Core) (d r : BitVec 4) (v : Word) :
    (k.setG d v).rg r = if r = d ∧ d ≠ 0 then v else k.rg r := by
  by_cases hd : d = 0
  · simp [Core.setG, hd]
  · by_cases hr : r = d
    · subst hr
      have h0 : ¬ r = 0#4 := hd
      simp [Core.setG, Core.rg, h0, Vector.get_eq_getElem]
    · have hne : d.toNat ≠ r.toNat := fun e => hr (BitVec.eq_of_toNat_eq e.symm)
      simp only [Core.setG, hd, if_false, hr, false_and, Core.rg]
      by_cases h0 : r = 0
      · simp [h0]
      · simp only [h0, if_false, Vector.get_eq_getElem]
        exact Vector.getElem_set_ne _ _ hne

/-- The general registers after a write. -/
def Core.gAfter (k : Core) (d : BitVec 4) (v : Word) : Vector Word 16 := if d = 0 then k.g else k.g.set d.toNat v d.isLt

theorem Core.setG_eq (k : Core) (d : BitVec 4) (v : Word) : k.setG d v = { k with g := k.gAfter d v } := by
  unfold Core.setG Core.gAfter
  split <;> rfl

/-- A core's general register reads depend on `g` alone. -/
theorem Core.rg_congr {k q : Core} (h : k.g = q.g) (r : BitVec 4) : k.rg r = q.rg r := by
  unfold Core.rg
  rw [h]

theorem word_and_ones (x : Word) : x &&& 65535#16 = x := by
  have h : (65535#16 : Word) = BitVec.allOnes 16 := rfl
  rw [h, BitVec.and_allOnes]

/-- New sticky bits are hidden from the next instruction (R235). -/
theorem sticky_hidden (m x : Word) : (x ||| m) &&& ~~~(m &&& ~~~x) = x := by
  ext i hi
  simp
  cases x[i] <;> cases m[i] <;> rfl

theorem sticky_none {m x : Word} (e : m &&& ~~~x = 0) : x ||| m = x := by
  have := sticky_hidden m x
  rw [e] at this
  simpa [word_and_ones] using this

/-- A result in Gd and the sticky bits, after an instruction of n words on a ready core. -/
theorem Core.putG_retire (k : Core) (d : BitVec 4) (r : Narrow 16) (n : Nat) (hq : k.pending = []) :
    let m := bitWord 1 r.ov ||| bitWord 0 r.dz
    (k.putG d r).retire n none none =
      { k with g := k.gAfter d r.val, cst := k.cst ||| m, pc := k.pc + BitVec.ofNat 14 n,
               pending := if m &&& ~~~k.cst = 0 then [] else [⟨1, .sticky, (m &&& ~~~k.cst).setWidth 40⟩] } := by
  intro m
  by_cases hn : m &&& ~~~k.cst = 0
  · have hn' : (bitWord 1 r.ov ||| bitWord 0 r.dz) &&& ~~~k.cst = 0#16 := hn
    simp [Core.putG, Core.stick, Core.setG_eq, hn, hn', Core.retire, Core.age, hq, sticky_none hn]
  · have hn' : ¬ (bitWord 1 r.ov ||| bitWord 0 r.dz) &&& ~~~k.cst = 0#16 := hn
    simp [Core.putG, Core.stick, Core.setG_eq, hn', Core.retire, Core.age, Core.delay, hq, m]

/-- A result in Gd on a ready core, as the machine stands after the instruction. -/
theorem wroteG_putG {s : State} {c : CoreId} {n : Nat} (d : BitVec 4) (r : Narrow 16) (h : s.ready c n) :
    WroteG s (s.setCore c (((s.core c).putG d r).retire n none none)) c n d r.val r.ov r.dz := by
  obtain ⟨⟨_, _, _, hq⟩, _⟩ := h
  rw [Core.putG_retire _ _ _ _ hq]
  refine ⟨by simp [OnlyCore], ?_, ?_, ?_, ?_, ?_⟩
  · intro i
    rw [State.core_setCore, ← Core.rg_setG]
    exact Core.rg_congr (by rw [Core.setG_eq]) i
  · simp
  · simp [BitVec.or_assoc]
  · rw [State.core_setCore]
    split
    · rename_i e
      simp [Core.cstRead, Core.newest, sticky_none e, word_and_ones]
    · have := sticky_hidden (bitWord 1 r.ov ||| bitWord 0 r.dz) (s.core c).cst
      simpa [Core.cstRead, Core.newest] using this
  · simp

end Sys2Proof.Machine
end

