-- ==== Sys2Proof/Laws/Lines.lean ====
section
/-! SUPPORT. What an answer to a Mustix command comes to, and how a command that may run completes or becomes a long
operation. -/

namespace Sys2Proof.Machine

open Sys2Proof

/-! ### Changes of the lines alone -/

theorem OnlyLines.refl (s : State) : OnlyLines s s := ⟨rfl, rfl, fun p => by cases p <;> rfl⟩

theorem OnlyLines.trans {s t u : State} (h : OnlyLines s t) (g : OnlyLines t u) : OnlyLines s u := by
  obtain ⟨h1, h2, h3⟩ := h
  obtain ⟨g1, g2, g3⟩ := g
  refine ⟨?_, g2.trans h2, fun p => ?_⟩
  · rw [g1, h1]
  · rw [g3 p, h3 p]

theorem word_mask (x y m : Word) (h : y &&& m = 0) : ((x &&& m) ||| y) &&& m = x &&& m := by
  ext i hi
  have := congrArg (fun w : Word => w.getLsbD i) h
  simp [BitVec.getLsbD_eq_getElem hi] at this
  simp
  cases hx : x[i] <;> cases hy : y[i] <;> cases hm : m[i] <;> simp_all

theorem bitWord_mask14 (b : Bool) : bitWord 14 b &&& 0xBFFF = 0 := by cases b <;> rfl

@[simp] theorem State.setOut_interp (s : State) (p : MPort) (out : List OutLine) : (s.setOut p out).interp = s.interp := by
  cases p <;> rfl

@[simp] theorem State.lines_setOut (s : State) (p : MPort) (out : List OutLine) :
    (s.setOut p out).lines p = { s.lines p with out := out } := by
  cases p <;> rfl

theorem State.setOut_onlyLines (s : State) (p : MPort) (out : List OutLine) : OnlyLines s (s.setOut p out) := by
  refine ⟨?_, ?_, fun q => ?_⟩
  · cases p <;> rfl
  · cases p
    · rfl
    · rfl
    · exact word_mask _ _ _ (bitWord_mask14 _)
  · cases p <;> cases q <;> rfl

/-! ### Whole lines -/

/-- A line as it stands in the queue of a port. -/
def State.queued (s : State) (p : MPort) (m : Bool) (b : String) : OutLine :=
  { cls := none, text := s.wrapEcho p (lineText (s.lines p).gen b), mark := m }

theorem State.putLine_none (s : State) (p : MPort) (m : Bool) (b : String) :
    s.putLine p none m b = s.setOut p ((s.lines p).out ++ [s.queued p m b]) := rfl

theorem State.queued_setOut (s : State) (p : MPort) (out : List OutLine) (m : Bool) (b : String) :
    (s.setOut p out).queued p m b = s.queued p m b := by
  simp [State.queued, State.wrapEcho]

theorem State.setOut_setOut (s : State) (p : MPort) (a b : List OutLine) :
    ((s.setOut p a).setOut p b).lines p = { s.lines p with out := b } := by
  simp

theorem State.lineChars_setOut (s : State) (p : MPort) (out : List OutLine) :
    (s.setOut p out).lineChars p = s.lineChars p := by
  funext b
  simp [State.lineChars, State.wrapEcho]

/-- A response line of text b that neither an action nor settings follow. -/
def plainLine (b : String) : OutLine := { cls := none, text := b }

theorem State.putAnswer_plain (s : State) (p : MPort) (m : Bool) (b : String) :
    s.putAnswer p { cls := none, text := b, mark := m } = s.setOut p ((s.lines p).out ++ [s.queued p m b]) := rfl

/-- Response lines put one after the other. -/
theorem State.putAnswers_spec (p : MPort) (bs : List String) (s : State) :
    let t := (bs.map plainLine).foldl (fun (t : State) o => t.putAnswer p o) s
    OnlyLines s t ∧ t.interp = s.interp ∧ t.lines p = { s.lines p with out := (s.lines p).out ++ bs.map (s.queued p false) } := by
  induction bs generalizing s with
  | nil => exact ⟨OnlyLines.refl s, rfl, by cases p <;> simp⟩
  | cons b r ih =>
    obtain ⟨h1, h2, h3⟩ := ih (s.setOut p ((s.lines p).out ++ [s.queued p false b]))
    rw [List.map_cons, List.foldl_cons, show s.putAnswer p (plainLine b) = _ from State.putAnswer_plain s p false b]
    refine ⟨(State.setOut_onlyLines s p _).trans h1, by rw [h2, State.setOut_interp], ?_⟩
    rw [h3]
    simp [State.queued_setOut]

/-- The lengths of lines that a response sums up. -/
theorem foldl_lengths {α : Type} (f : α → Nat) (l : List α) (n : Nat) :
    l.foldl (fun n b => n + f b) n = n + (l.map f).sum := by
  induction l generalizing n with
  | nil => simp
  | cons b r ih => simp [ih, Nat.add_assoc]

/-- Response lines stand at the end of a port's queue when all of them fit and none waits there, else they wait for room
(R307). -/
theorem State.putLines_eq (s : State) (p : MPort) (os : List OutLine) :
    s.putLines p os =
      if (s.lines p).used + (os.map (fun o => s.lineChars p o.text)).sum ≤ 16224 ∧ (∀ x ∈ s.interp.lines, x.1 ≠ p) then
        os.foldl (fun (t : State) o => t.putAnswer p o) s
      else { s with interp := { s.interp with lines := s.interp.lines ++ os.map (fun o => (p, o)) } } := by
  unfold State.putLines
  simp only [foldl_lengths (fun o : OutLine => s.lineChars p o.text), Nat.zero_add, limitResponse]
  congr 1
  simp [List.all_eq_true]

/-- A response that no settings follow (R307). -/
theorem State.putResponse_spec (s : State) (c : CurLine) (m : Bool) (bodies : List String) (fin : String) :
    let t := s.putResponse c m bodies fin
    let l := s.lines c.port
    let ls := (bodies ++ [fin]).map (tagged c.tag)
    OnlyLines s t ∧ t.interp.cur = s.interp.cur ∧ t.interp.long = s.interp.long ∧
      if l.used + (ls.map (s.lineChars c.port)).sum ≤ 16224 ∧ (∀ x ∈ s.interp.lines, x.1 ≠ c.port) then
        (t.lines c.port).out.map (·.text) = l.out.map (·.text) ++ ls.map (fun b => s.wrapEcho c.port (lineText l.gen b)) ∧
          t.interp = s.interp
      else t.interp.lines.map (fun x => (x.1, x.2.text)) = s.interp.lines.map (fun x => (x.1, x.2.text)) ++
          ls.map (fun b => (c.port, b)) ∧ (t.lines c.port).out = l.out := by
  intro t l ls
  have ht : t = s.putLines c.port ((bodies.map (tagged c.tag)).map plainLine ++
      [{ cls := none, text := tagged c.tag fin, mark := m }]) := by
    show s.putResponse c m bodies fin = _
    simp [State.putResponse, plainLine, Function.comp_def]
  have hn : (((bodies.map (tagged c.tag)).map plainLine ++ [({ cls := none, text := tagged c.tag fin, mark := m } : OutLine)]).map
      (fun o => s.lineChars c.port o.text)) = ls.map (s.lineChars c.port) := by
    simp [ls, plainLine, Function.comp_def]
  rw [State.putLines_eq, hn] at ht
  by_cases hfit : l.used + (ls.map (s.lineChars c.port)).sum ≤ 16224 ∧ (∀ x ∈ s.interp.lines, x.1 ≠ c.port)
  · rw [if_pos hfit, List.foldl_append, List.foldl_cons, List.foldl_nil, State.putAnswer_plain] at ht
    obtain ⟨h1, h2, h3⟩ := State.putAnswers_spec c.port (bodies.map (tagged c.tag)) s
    rw [if_pos hfit, ht]
    generalize ((bodies.map (tagged c.tag)).map plainLine).foldl (fun t o => t.putAnswer c.port o) s = u at h1 h2 h3
    refine ⟨h1.trans (State.setOut_onlyLines _ _ _), by simp [h2], by simp [h2], ?_, by simp [h2]⟩
    rw [State.lines_setOut, h3]
    simp only [List.map_append, List.map_map, List.append_assoc, ls, l, List.map_cons, List.map_nil, State.queued, h3]
    congr 1
    congr 1
    simp [State.wrapEcho, h3]
  · rw [if_neg hfit] at ht
    rw [if_neg hfit, ht]
    refine ⟨⟨rfl, rfl, fun p => by cases p <;> rfl⟩, rfl, rfl, ?_, rfl⟩
    simp [ls, plainLine, Function.comp_def]

/-- An answer of a command (R296, R298, R307). -/
theorem State.respond_spec (s : State) (conts : List String) (fin : String) :
    OnlyLines s (s.respond conts fin) ∧ Said s (s.respond conts fin) conts fin := by
  obtain ⟨h1, h2, h3, h4⟩ := State.putResponse_spec s s.curLine false (conts.map (":" ++ ·)) fin
  refine ⟨?_, rfl, ?_⟩
  · refine h1.trans ⟨rfl, rfl, fun p => by cases p <;> rfl⟩
  · show if _ then _ else _
    split
    · rename_i hf
      rw [if_pos hf] at h4
      refine ⟨?_, ?_⟩
      · rw [← h4.1]
        simp only [State.respond]
        cases s.curLine.port <;> rfl
      · show (s.putResponse s.curLine false (conts.map (":" ++ ·)) fin).interp.lines = _
        rw [h4.2]
    · rename_i hf
      rw [if_neg hf] at h4
      refine ⟨h4.1, ?_⟩
      rw [← h4.2]
      simp only [State.respond]
      cases s.curLine.port <;> rfl

/-! ### Commands that run -/

/-- Where the interpreter serves the ports and is free, a command that may run does (R301, R313). -/
theorem State.command_idle {s : State} (relayOk testOk : Bool) (body : State → State) (h : s.idleMx)
    (hr : relayOk = true ∨ s.isRelay = false) (ht : testOk = true ∨ s.seq.testState = false) :
    s.command relayOk testOk body = .next (body s) := by
  obtain ⟨h1, h2, h3, h4⟩ := h
  rcases hr with rfl | hr <;> rcases ht with rfl | ht <;> simp [State.command, *]

/-- A command whose body answers at once completes. -/
theorem completes_of {i : Instr} {s u : State} {conts : List String} {fin : String} {eff : State → Prop}
    (h : exec i s = .next (u.respond conts fin)) (hu : eff u) (hi : u.interp = s.interp) :
    Completes i s conts fin eff :=
  ⟨u, _, h, hu, hi, State.respond_spec u conts fin⟩

/-! ### Long operations -/

/-- One response line, put or left waiting: of the interpreter, only the waiting lines may differ. -/
theorem State.putLines_one (s : State) (p : MPort) (b : String) :
    let t := s.putLines p [plainLine b]
    OnlyLines s t ∧ t.interp = { s.interp with lines := t.interp.lines } ∧ t.ports.sbBusy = s.ports.sbBusy ∧
      ∀ q, (t.lines q).waiting = (s.lines q).waiting := by
  intro t
  have ht : t = s.putLines p [plainLine b] := rfl
  rw [State.putLines_eq] at ht
  split at ht
  · rw [List.foldl_cons, List.foldl_nil, show s.putAnswer p (plainLine b) = _ from State.putAnswer_plain s p false b] at ht
    rw [ht]
    refine ⟨State.setOut_onlyLines _ _ _, by simp, ?_, fun q => ?_⟩
    · cases p <;> rfl
    · cases p <;> cases q <;> rfl
  · rw [ht]
    exact ⟨⟨rfl, rfl, fun q => by cases q <;> rfl⟩, rfl, rfl, fun _ => rfl⟩

theorem State.sayBusy_spec (s : State) (p : MPort) (line : String) :
    let t := s.sayBusy p line
    OnlyLines s t ∧ t.interp = { s.interp with lines := t.interp.lines } ∧ t.ports.sbBusy = s.ports.sbBusy ∧
      ∀ q, (t.lines q).waiting = (s.lines q).waiting :=
  State.putLines_one s p _

/-- Every line that waits on a port is answered `~BUSY` and discarded. -/
def State.dismiss (s : State) (p : MPort) : State :=
  let l := s.lines p
  let t := l.waiting.foldl (fun (t : State) w => t.sayBusy p w.1) s
  t.setLines p { (t.lines p) with waiting := [] }

theorem State.sayAll_spec (p : MPort) (ws : List (String × Bool)) (s : State) :
    let t := ws.foldl (fun (t : State) w => t.sayBusy p w.1) s
    OnlyLines s t ∧ t.interp = { s.interp with lines := t.interp.lines } ∧ t.ports.sbBusy = s.ports.sbBusy ∧
      ∀ q, (t.lines q).waiting = (s.lines q).waiting := by
  induction ws generalizing s with
  | nil => exact ⟨OnlyLines.refl s, rfl, rfl, fun _ => rfl⟩
  | cons w r ih =>
    obtain ⟨h1, h2, h3, h4⟩ := State.sayBusy_spec s p w.1
    obtain ⟨g1, g2, g3, g4⟩ := ih (s.sayBusy p w.1)
    refine ⟨h1.trans g1, ?_, g3.trans h3, fun q => (g4 q).trans (h4 q)⟩
    rw [List.foldl_cons]
    rw [h2] at g2
    exact g2

theorem State.dismiss_spec (s : State) (p : MPort) :
    OnlyLines s (s.dismiss p) ∧ (s.dismiss p).interp = { s.interp with lines := (s.dismiss p).interp.lines } ∧
      (s.dismiss p).ports.sbBusy = s.ports.sbBusy ∧
      ∀ q, ((s.dismiss p).lines q).waiting = if q = p then [] else (s.lines q).waiting := by
  obtain ⟨h1, h2, h3, h4⟩ := State.sayAll_spec p (s.lines p).waiting s
  refine ⟨h1.trans ⟨?_, ?_, fun q => ?_⟩, ?_, ?_, fun q => ?_⟩
  · cases p <;> rfl
  · cases p <;> rfl
  · cases p <;> cases q <;> rfl
  · cases p <;> exact h2
  · rw [← h3]
    cases p <;> rfl
  · split
    · rename_i e
      subst e
      cases q <;> rfl
    · rw [← h4 q]
      cases p <;> cases q <;> first | rfl | contradiction

theorem State.beginLong_spec (s : State) (k : LongKind) (fin : Option String) :
    let t := s.beginLong k fin
    OnlyLines s t ∧ t.interp.cur = none ∧ t.interp.long = some ⟨k, s.curLine, fin, false⟩ ∧ t.ports.sbBusy = true ∧
      t.interp.wait = s.interp.wait ∧ ∀ p, (t.lines p).waiting = [] := by
  intro t
  let t0 : State := { s with interp := { s.interp with cur := none, long := some ⟨k, s.curLine, fin, false⟩ },
                             ports := { s.ports with sbBusy := true } }
  have ht : t = ((t0.dismiss .a).dismiss .b).dismiss .s := rfl
  obtain ⟨a1, a2, a3, a4⟩ := State.dismiss_spec t0 .a
  obtain ⟨b1, b2, b3, b4⟩ := State.dismiss_spec (t0.dismiss .a) .b
  obtain ⟨c1, c2, c3, c4⟩ := State.dismiss_spec ((t0.dismiss .a).dismiss .b) .s
  have h0 : OnlyLines s t0 := ⟨rfl, rfl, fun p => by cases p <;> rfl⟩
  have hi : t.interp = { t0.interp with lines := t.interp.lines } := by
    rw [b2, a2] at c2
    rw [ht]
    exact c2
  refine ⟨ht ▸ h0.trans (a1.trans (b1.trans c1)), by rw [hi], by rw [hi], by rw [ht, c3, b3, a3], by rw [hi], fun p => ?_⟩
  rw [ht, c4, b4, a4]
  cases p <;> simp

/-- A command whose body starts a long operation begins it. -/
theorem begins_of {i : Instr} {s u : State} {k : LongKind} {fin : Option String} {eff : State → Prop}
    (h : exec i s = .next (u.beginLong k fin)) (hu : eff u) (hc : u.curLine = s.curLine) : Begins i s k fin eff := by
  obtain ⟨h1, h2, h3, h4, -, h6⟩ := State.beginLong_spec u k fin
  exact ⟨u, _, h, hu, h1, h2, hc ▸ h3, h4, h6⟩

/-! ### Events -/

/-- Nothing differs but the host ports. -/
def OnlyPorts (s t : State) : Prop := t = { s with porta := t.porta, portb := t.portb, ports := t.ports }

theorem OnlyPorts.refl (s : State) : OnlyPorts s s := rfl

theorem OnlyPorts.trans {s t u : State} (h : OnlyPorts s t) (g : OnlyPorts t u) : OnlyPorts s u := by
  unfold OnlyPorts at *
  rw [g, h]

theorem State.setLines_onlyPorts (s : State) (p : MPort) (l : Lines) : OnlyPorts s (s.setLines p l) := by
  cases p <;> rfl

theorem State.setOut_onlyPorts (s : State) (p : MPort) (out : List OutLine) : OnlyPorts s (s.setOut p out) := by
  cases p <;> rfl

theorem State.putLine_onlyPorts (s : State) (p : MPort) (cls : Option EvClass) (mark : Bool) (body : String) :
    OnlyPorts s (s.putLine p cls mark body) := by
  unfold State.putLine
  split
  · cases p <;> rfl
  · exact s.setOut_onlyPorts p _

theorem State.portEvent_onlyPorts (s : State) (p : MPort) (cls : EvClass) (seq : Nat) (body : String) :
    OnlyPorts s (s.portEvent p cls seq body) := by
  unfold State.portEvent
  dsimp only
  split
  · exact s.putLine_onlyPorts ..
  · split
    · split
      · exact (s.setOut_onlyPorts ..).trans (State.putLine_onlyPorts ..)
      · split
        · exact ((s.setOut_onlyPorts ..).trans (State.setLines_onlyPorts ..)).trans (State.putLine_onlyPorts ..)
        · exact s.setOut_onlyPorts ..
    · rfl

/-- An event writes its entry into the log, unless TMON forms it or it has none, and otherwise changes the host ports
alone (R8, R462). -/
theorem State.event_onlyPorts (s : State) (cls : EvClass) (kind pairs : String) :
    OnlyPorts (if evLogged cls && !s.safe.on then s.addLog (logKind cls kind) pairs else s) (s.event cls kind pairs) := by
  have fold : ∀ (l : List MPort) (n : Nat) (b : String) (t : State),
      OnlyPorts t (l.foldl (fun (t : State) p => t.portEvent p cls n b) t) := by
    intro l n b
    induction l with
    | nil => exact OnlyPorts.refl
    | cons p r ih => exact fun t => (t.portEvent_onlyPorts p cls n b).trans (ih _)
  unfold State.event
  by_cases h : (s.safe.on && !safeSends cls kind) = true
  · have hs : s.safe.on = true := (Bool.and_eq_true _ _ ▸ h).1
    rw [if_pos h, if_neg (by simp [hs])]
    exact OnlyPorts.refl s
  · rw [if_neg h]
    exact fold _ _ _ _

end Sys2Proof.Machine
end

