-- ==== Sys2Proof/Laws/Memory.lean ====
section
/-! SUPPORT. The laws of the sparse memories: what a read sees after a write, that every memory operation keeps the
canonical form, and that two memories in that form which read alike are equal. -/

namespace Sys2Proof.Machine

open Sys2Proof

/-! ### The canonical form -/

theorem Memory.wf_cons {d : Nat → Word} {c : Nat × Word} {m : Memory} :
    Memory.wf d (c :: m) = true ↔ c.2 ≠ d c.1 ∧ (∀ x ∈ m, c.1 < x.1) ∧ Memory.wf d m = true := by
  induction m generalizing c with
  | nil => obtain ⟨a, w⟩ := c; simp [Memory.wf]
  | cons e r ih =>
    obtain ⟨a, w⟩ := c
    obtain ⟨b, v⟩ := e
    have h := ih (c := (b, v))
    constructor
    · intro H
      simp only [Memory.wf, Bool.and_eq_true, bne_iff_ne, ne_eq, decide_eq_true_eq] at H
      obtain ⟨⟨h1, h2⟩, h3⟩ := H
      refine ⟨h1, ?_, h3⟩
      intro x hx
      rcases List.mem_cons.1 hx with rfl | hx
      · exact h2
      · exact lt_trans h2 ((h.1 h3).2.1 x hx)
    · rintro ⟨h1, h2, h3⟩
      simp only [Memory.wf, Bool.and_eq_true, bne_iff_ne, ne_eq, decide_eq_true_eq]
      exact ⟨⟨h1, h2 _ List.mem_cons_self⟩, h3⟩

theorem Memory.read_below {d : Nat → Word} {m : Memory} {a : Nat} (h : ∀ x ∈ m, a < x.1) : m.read d a = d a := by
  cases m with
  | nil => rfl
  | cons c r =>
    obtain ⟨b, w⟩ := c
    have hb : a < b := h _ List.mem_cons_self
    simp [Memory.read, hb, ne_of_lt hb]

theorem Memory.mem_write {d : Nat → Word} {m : Memory} {a : Nat} {v : Word} {x : Nat × Word}
    (h : x ∈ Memory.write d m a v) : x ∈ m ∨ x = (a, v) := by
  induction m with
  | nil =>
    simp only [Memory.write] at h
    split at h <;> simp_all
  | cons c r ih =>
    obtain ⟨b, w⟩ := c
    simp only [Memory.write] at h
    split at h
    · split at h <;> simp_all
      tauto
    · split at h
      · split at h <;> simp_all
        tauto
      · rcases List.mem_cons.1 h with h | h
        · simp [h]
        · rcases ih h with h | h <;> simp [h]

theorem Memory.write_wf {d : Nat → Word} {m : Memory} (a : Nat) (v : Word) (h : Memory.wf d m = true) :
    Memory.wf d (Memory.write d m a v) = true := by
  induction m with
  | nil =>
    simp only [Memory.write]
    split
    · rfl
    · simpa [Memory.wf] using ‹_›
  | cons c r ih =>
    obtain ⟨b, w⟩ := c
    obtain ⟨h1, h2, h3⟩ := Memory.wf_cons.1 h
    simp only [Memory.write]
    split
    · rename_i hlt
      split
      · exact h
      · refine Memory.wf_cons.2 ⟨‹_›, ?_, h⟩
        intro x hx
        rcases List.mem_cons.1 hx with rfl | hx
        · exact hlt
        · exact lt_trans hlt (h2 x hx)
    · split
      · rename_i heq
        split
        · exact h3
        · refine Memory.wf_cons.2 ⟨?_, h2, h3⟩
          simp only
          rw [← heq]
          assumption
      · refine Memory.wf_cons.2 ⟨h1, ?_, ih h3⟩
        intro x hx
        rcases Memory.mem_write hx with hx | rfl
        · exact h2 x hx
        · simp only
          omega

theorem Memory.read_write_same {d : Nat → Word} {m : Memory} (a : Nat) (v : Word) (h : Memory.wf d m = true) :
    (Memory.write d m a v).read d a = v := by
  induction m with
  | nil =>
    simp only [Memory.write]
    split <;> simp_all [Memory.read]
  | cons c r ih =>
    obtain ⟨b, w⟩ := c
    obtain ⟨h1, h2, h3⟩ := Memory.wf_cons.1 h
    simp only [Memory.write]
    split
    · rename_i hlt
      split
      · simp_all [Memory.read, ne_of_lt hlt]
      · simp [Memory.read]
    · split
      · rename_i heq
        split
        · rw [Memory.read_below (fun x hx => heq ▸ h2 x hx)]
          simp_all
        · simp [Memory.read, heq]
      · rename_i hn1 hn2
        simp [Memory.read, hn1, hn2, ih h3]

theorem Memory.read_write_ne {d : Nat → Word} {m : Memory} {a b : Nat} (v : Word) (h : Memory.wf d m = true) (hab : a ≠ b) :
    (Memory.write d m a v).read d b = m.read d b := by
  induction m with
  | nil =>
    simp only [Memory.write]
    split
    · rfl
    · simp [Memory.read, hab.symm]
  | cons c r ih =>
    obtain ⟨x, w⟩ := c
    obtain ⟨h1, h2, h3⟩ := Memory.wf_cons.1 h
    simp only [Memory.write]
    split
    · rename_i hlt
      split
      · rfl
      · by_cases hb : b < a
        · have : b < x := lt_trans hb hlt
          simp [Memory.read, hab.symm, hb, this, ne_of_lt this]
        · simp [Memory.read, hab.symm, hb]
    · split
      · rename_i heq
        subst heq
        split
        · by_cases hb : b < a
          · rw [Memory.read_below (fun y hy => lt_trans hb (h2 y hy))]
            simp [Memory.read, hab.symm, hb]
          · simp [Memory.read, hab.symm, hb]
        · simp [Memory.read, hab.symm]
      · simp [Memory.read, ih h3]

theorem Memory.drop_wf {d : Nat → Word} {m : Memory} (p : Nat → Bool) (h : Memory.wf d m = true) :
    Memory.wf d (m.drop p) = true := by
  induction m with
  | nil => rfl
  | cons c r ih =>
    obtain ⟨h1, h2, h3⟩ := Memory.wf_cons.1 h
    by_cases hp : p c.1 = true
    · have : Memory.drop (c :: r) p = Memory.drop r p := by simp [Memory.drop, hp]
      rw [this]
      exact ih h3
    · have hp' : p c.1 = false := by simpa using hp
      have : Memory.drop (c :: r) p = c :: Memory.drop r p := by simp [Memory.drop, hp']
      rw [this]
      refine Memory.wf_cons.2 ⟨h1, ?_, ih h3⟩
      intro x hx
      exact h2 x (List.mem_of_mem_filter hx)

/-- The form depends on the default at the listed addresses alone. -/
theorem Memory.wf_congr {d e : Nat → Word} {m : Memory} (he : ∀ x ∈ m, d x.1 = e x.1) :
    Memory.wf d m = Memory.wf e m := by
  induction m with
  | nil => rfl
  | cons c r ih =>
    have hr := ih (fun x hx => he x (List.mem_cons_of_mem _ hx))
    rw [Bool.eq_iff_iff, Memory.wf_cons, Memory.wf_cons, hr, he c List.mem_cons_self]

/-- A canonical memory is determined by what it reads. -/
theorem Memory.eq_of_read {d : Nat → Word} {m n : Memory} (hm : Memory.wf d m = true) (hn : Memory.wf d n = true)
    (h : ∀ a, m.read d a = n.read d a) : m = n := by
  induction m generalizing n with
  | nil =>
    cases n with
    | nil => rfl
    | cons c r =>
      obtain ⟨h1, -, -⟩ := Memory.wf_cons.1 hn
      have := h c.1
      obtain ⟨b, w⟩ := c
      simp [Memory.read] at this h1
      exact absurd this.symm h1
  | cons c r ih =>
    obtain ⟨h1, h2, h3⟩ := Memory.wf_cons.1 hm
    cases n with
    | nil =>
      have := h c.1
      obtain ⟨b, w⟩ := c
      simp [Memory.read] at this h1
      exact absurd this h1
    | cons e q =>
      obtain ⟨g1, g2, g3⟩ := Memory.wf_cons.1 hn
      obtain ⟨a, w⟩ := c
      obtain ⟨b, v⟩ := e
      have hab : a = b := by
        rcases lt_trichotomy a b with hl | he | hl
        · have := h a
          simp [Memory.read, hl, ne_of_lt hl] at this
          exact absurd this h1
        · exact he
        · have := h b
          simp [Memory.read, hl, ne_of_lt hl] at this
          exact absurd this.symm g1
      subst hab
      have hwv : w = v := by simpa [Memory.read] using h a
      subst hwv
      congr 1
      refine ih h3 g3 ?_
      intro x
      by_cases hx : x ≤ a
      · rw [Memory.read_below (fun y hy => lt_of_le_of_lt hx (h2 y hy)),
          Memory.read_below (fun y hy => lt_of_le_of_lt hx (g2 y hy))]
      · have := h x
        have h1 : ¬ x = a := by omega
        have h2 : ¬ x < a := by omega
        rw [Memory.read, Memory.read] at this
        rwa [if_neg h1, if_neg h2, if_neg h1, if_neg h2] at this

theorem Memory.fill_wf {m : Memory} (a : Nat) (ws : List Word) (h : m.wf zeros = true) : (m.fill a ws).wf zeros = true := by
  induction ws generalizing m a with
  | nil => exact h
  | cons w r ih => exact ih _ (Memory.write_wf _ _ h)

/-- What a fill leaves at an address. -/
theorem Memory.get0_fill {m : Memory} (a b : Nat) (ws : List Word) (h : m.wf zeros = true) :
    (m.fill a ws).get0 b = if a ≤ b ∧ b < a + ws.length then ws.getD (b - a) 0 else m.get0 b := by
  induction ws generalizing m a with
  | nil =>
    have : ¬ (a ≤ b ∧ b < a + ([] : List Word).length) := by simp
    rw [if_neg this]
    rfl
  | cons w r ih =>
    rw [Memory.fill, ih (m := m.set0 a w) _ (Memory.write_wf _ _ h)]
    by_cases hb : b = a
    · subst hb
      have h1 : ¬ (b + 1 ≤ b ∧ b < b + 1 + r.length) := by omega
      have h2 : b ≤ b ∧ b < b + (w :: r).length := by simp
      rw [if_neg h1, if_pos h2]
      simp [Memory.get0, Memory.set0, Memory.read_write_same _ _ h]
    · by_cases hr : a + 1 ≤ b ∧ b < a + 1 + r.length
      · have h2 : a ≤ b ∧ b < a + (w :: r).length := by simp; omega
        rw [if_pos hr, if_pos h2]
        obtain ⟨k, hk⟩ : ∃ k, b - a = k + 1 := ⟨b - a - 1, by omega⟩
        have : b - (a + 1) = k := by omega
        rw [hk, this]
        rfl
      · have h2 : ¬ (a ≤ b ∧ b < a + (w :: r).length) := by simp; omega
        rw [if_neg hr, if_neg h2]
        exact Memory.read_write_ne _ h (fun e => hb e.symm)

/-! ### The ledger SRAM -/

theorem Sram.write_wf {m : Sram} (a : Nat) (v : Word) (h : m.wf = true) : (m.write a v).wf = true :=
  Memory.write_wf a v h

theorem State.memOk_congr {s t : State} (hs : t.sram.wf = s.sram.wf) (hc : t.cores = s.cores) (h : s.memOk) : t.memOk :=
  ⟨hs.trans h.1, fun c => by simpa [State.core, hc] using h.2 c⟩

@[simp] theorem State.rd_wakeBank (s : State) (b a : Nat) : (s.wakeBank b).rd a = s.rd a := rfl
@[simp] theorem State.core_wr (s : State) (a : Nat) (v : Word) (c : CoreId) : (s.wr a v).core c = s.core c := by
  unfold State.wr
  split <;> rfl

theorem State.wr_memOk {s : State} (a : Nat) (v : Word) (h : s.memOk) : (s.wr a v).memOk := by
  unfold State.wr
  split
  · exact ⟨Memory.write_wf a v h.1, h.2⟩
  · exact h

theorem State.wrPair_memOk {s : State} (a : Nat) (lo hi : Word) (h : s.memOk) : (s.wrPair a lo hi).memOk := by
  unfold State.wrPair
  split
  · exact State.wr_memOk (a + 1) hi (State.wr_memOk a lo h)
  · exact h

theorem State.wrN_memOk {s : State} (a : Nat) (ws : List Word) (h : s.memOk) : (s.wrN a ws).memOk := by
  match ws with
  | [] => exact h
  | [w] => exact State.wr_memOk a w h
  | w :: v :: r =>
    rw [State.wrN]
    split
    · exact State.wrN_memOk (a + 2) r (State.wrPair_memOk a w v h)
    · exact State.wrN_memOk (a + 1) (v :: r) (State.wr_memOk a w h)
  termination_by ws.length

/-- A read after a write of one word. -/
theorem State.rd_wr {s : State} (a b : Nat) (v : Word) (h : s.memOk) :
    (s.wr a v).rd b = if b = a ∧ a < sramEnd then v else s.rd b := by
  unfold State.wr
  by_cases ha : a < sramEnd
  · rw [if_pos ha]
    by_cases hb : b = a
    · subst hb
      simp only [ha, and_self, if_true]
      exact Memory.read_write_same b v h.1
    · simp only [hb, false_and, if_false]
      exact Memory.read_write_ne v h.1 (fun e => hb e.symm)
  · simp [ha]

/-- A read after a write of a pair, whose two words lie in the SRAM together. -/
theorem State.rd_wrPair {s : State} (a b : Nat) (lo hi : Word) (h : s.memOk) (ha : a + 1 < sramEnd) :
    (s.wrPair a lo hi).rd b = if b = a then lo else if b = a + 1 then hi else s.rd b := by
  unfold State.wrPair
  rw [if_pos (by omega)]
  show ((s.wr a lo).wr (a + 1) hi).rd b = _
  rw [State.rd_wr _ _ _ (State.wr_memOk a lo h), State.rd_wr _ _ _ h]
  by_cases h1 : b = a + 1
  · subst h1
    simp [ha]
  · by_cases h2 : b = a
    · subst h2
      simp [(by omega : b < sramEnd)]
    · simp [h1, h2]

/-- A read after a write of consecutive words of the SRAM. -/
theorem State.rd_wrN {s : State} (a b : Nat) (ws : List Word) (h : s.memOk) (he : a + ws.length ≤ sramEnd) :
    (s.wrN a ws).rd b = if a ≤ b ∧ b < a + ws.length then ws.getD (b - a) 0 else s.rd b := by
  match ws with
  | [] =>
    have : ¬ (a ≤ b ∧ b < a + ([] : List Word).length) := by simp
    rw [if_neg this]
    rfl
  | [w] =>
    simp only [List.length_singleton] at he ⊢
    rw [State.wrN, State.rd_wr _ _ _ h]
    by_cases hb : b = a
    · subst hb
      simp [(by omega : b < sramEnd)]
    · have : ¬ (a ≤ b ∧ b < a + 1) := by omega
      rw [if_neg this]
      simp [hb]
  | w :: v :: r =>
    simp only [List.length_cons] at he ⊢
    rw [State.wrN]
    split
    · rw [State.rd_wrN (a + 2) b r (State.wrPair_memOk a w v h) (by omega), State.rd_wrPair _ _ _ _ h (by omega)]
      by_cases h0 : b = a
      · subst h0
        simp
      · by_cases h1 : b = a + 1
        · subst h1
          simp
        · by_cases hr : a + 2 ≤ b ∧ b < a + 2 + r.length
          · have : a ≤ b ∧ b < a + (r.length + 1 + 1) := by omega
            rw [if_pos hr, if_pos this]
            obtain ⟨k, hk⟩ : ∃ k, b - a = k + 2 := ⟨b - a - 2, by omega⟩
            have hk' : b - (a + 2) = k := by omega
            rw [hk, hk']
            rfl
          · have : ¬ (a ≤ b ∧ b < a + (r.length + 1 + 1)) := by omega
            rw [if_neg hr, if_neg this]
            simp [h0, h1]
    · rw [State.rd_wrN (a + 1) b (v :: r) (State.wr_memOk a w h) (by simp; omega), State.rd_wr _ _ _ h]
      simp only [List.length_cons]
      by_cases h0 : b = a
      · subst h0
        simp [(by omega : b < sramEnd)]
      · by_cases hr : a + 1 ≤ b ∧ b < a + 1 + (r.length + 1)
        · have : a ≤ b ∧ b < a + (r.length + 1 + 1) := by omega
          rw [if_pos hr, if_pos this]
          obtain ⟨k, hk⟩ : ∃ k, b - a = k + 1 := ⟨b - a - 1, by omega⟩
          have hk' : b - (a + 1) = k := by omega
          rw [hk, hk']
          rfl
        · have : ¬ (a ≤ b ∧ b < a + (r.length + 1 + 1)) := by omega
          rw [if_neg hr, if_neg this]
          simp [h0]
  termination_by ws.length

theorem State.rdN_length (s : State) (a n : Nat) : (s.rdN a n).length = n := by simp [State.rdN]

/-- Words written are read back. -/
theorem State.rdN_wrN {s : State} (a : Nat) (ws : List Word) (h : s.memOk) (he : a + ws.length ≤ sramEnd) :
    (s.wrN a ws).rdN a ws.length = ws := by
  apply List.ext_getElem
  · simp [State.rdN]
  · intro i h1 h2
    simp only [State.rdN, List.getElem_map, List.getElem_range]
    rw [State.rd_wrN _ _ _ h he, if_pos (by omega)]
    simp [h2]

/-- Nothing but words of the ledger SRAM differs after a write. -/
theorem State.wr_onlySram {s : State} (a : Nat) (v : Word) (h : s.memOk) : OnlySram s (s.wr a v) (· = a) := by
  constructor
  · unfold State.wr
    split <;> rfl
  · intro b hb
    rw [State.rd_wr _ _ _ h]
    simp [hb]

theorem OnlySram.refl (s : State) (p : Nat → Prop) : OnlySram s s p := ⟨rfl, fun _ _ => rfl⟩

theorem OnlySram.trans {s t u : State} {p q : Nat → Prop} (h : OnlySram s t p) (g : OnlySram t u q) :
    OnlySram s u (fun a => p a ∨ q a) := by
  obtain ⟨h1, h2⟩ := h
  obtain ⟨g1, g2⟩ := g
  refine ⟨?_, fun a ha => ?_⟩
  · rw [g1, h1]
  · rw [g2 a (fun x => ha (Or.inr x)), h2 a (fun x => ha (Or.inl x))]

theorem OnlySram.mono {s t : State} {p q : Nat → Prop} (h : OnlySram s t p) (hpq : ∀ a, p a → q a) : OnlySram s t q :=
  ⟨h.1, fun a ha => h.2 a (fun x => ha (hpq a x))⟩

/-! ### Events that lose contents -/

/-- A drop of all cells at which the default changes keeps the form. -/
theorem Memory.drop_wf_of {d e : Nat → Word} {m : Memory} (p : Nat → Bool) (h : Memory.wf d m = true)
    (he : ∀ a, p a = false → d a = e a) : Memory.wf e (m.drop p) = true := by
  rw [← Memory.wf_congr (d := d) (e := e)]
  · exact Memory.drop_wf p h
  · intro x hx
    apply he
    simpa [Memory.drop] using (List.mem_filter.1 hx).2

theorem Sram.dropKeys_wf {m : Sram} (h : m.wf = true) : m.dropKeys.wf = true :=
  Memory.drop_wf (d := m.dflt) (m := m.cells) (keyBase ≤ ·) h

theorem resvArea_below {a : Nat} (h : keyBase ≤ a) : resvArea a = false := by
  simp only [keyBase] at h
  simp only [resvArea, Bool.and_eq_false_iff, decide_eq_false_iff_not]
  omega

theorem Sram.filled_keys (m : Sram) {a : Nat} (h : keyBase ≤ a) : m.filled a = none := by
  have hl : logArea a = false := by
    simp only [keyBase] at h
    simp only [logArea, Bool.and_eq_false_iff, decide_eq_false_iff_not]
    omega
  simp [Sram.filled, resvArea_below h, hl]

theorem Sram.undefine_wf {m : Sram} (on : Byte) (h : m.wf = true) : (m.undefine on).wf = true := by
  refine Memory.drop_wf_of (d := m.dflt) (e := (m.undefine on).dflt) (m := m.cells) (· < keyBase) h ?_
  intro a ha
  have hk : keyBase ≤ a := by simpa using ha
  simp [Sram.dflt, hk, Sram.filled_keys _ hk]

theorem Sram.clear_wf {m : Sram} (h : m.wf = true) : m.clear.wf = true := by
  refine Memory.drop_wf_of (d := m.dflt) (e := m.clear.dflt) (m := m.cells)
    (fun a => a < 0x388000 || logArea a) h ?_
  intro a ha
  have ha' : ¬ a < 0x388000 ∧ logArea a = false := by simpa using ha
  simp [Sram.dflt, Sram.filled, Sram.clear, Sram.epoch, ha'.1, ha'.2]

/-- A change of the reservation map, or of the event log ring, keeps the form. -/
theorem Sram.touchResv_wf {m : Sram} (h : m.wf = true) : m.touchResv.wf = true := by
  refine Memory.drop_wf_of (d := m.dflt) (e := m.touchResv.dflt) (m := m.cells) resvArea h ?_
  intro a ha
  simp [Sram.dflt, Sram.filled, Sram.touchResv, Sram.epoch, ha]

theorem Sram.touchLog_wf {m : Sram} (h : m.wf = true) : m.touchLog.wf = true := by
  refine Memory.drop_wf_of (d := m.dflt) (e := m.touchLog.dflt) (m := m.cells) logArea h ?_
  intro a ha
  simp [Sram.dflt, Sram.filled, Sram.touchLog, Sram.epoch, ha]

/-- Every word outside the cells dropped reads as before. -/
theorem Memory.drop_read {d e : Nat → Word} {m : Memory} (p : Nat → Bool) {a : Nat} (h : Memory.wf d m = true)
    (ha : p a = false) (he : d a = e a) : (m.drop p).read e a = m.read d a := by
  induction m with
  | nil => exact he.symm
  | cons c r ih =>
    have hw := Memory.wf_cons.1 h
    have hr := ih hw.2.2
    by_cases hp : p c.1 = true
    · have hne : a ≠ c.1 := fun x => by simp [x, hp] at ha
      by_cases hl : a < c.1
      · have hbelow : ∀ x ∈ r, a < x.1 := fun x hx => Nat.lt_trans hl (hw.2.1 x hx)
        rw [Memory.read_below hbelow] at hr
        simpa [Memory.drop, hp, Memory.read, hne, hl] using hr
      · simpa [Memory.drop, hp, Memory.read, hne, hl] using hr
    · have hp' : p c.1 = false := by simpa using hp
      simp only [Memory.drop] at hr ⊢
      simp [hp', Memory.read, hr, he]

theorem Sram.epoch_set (m : Sram) {b : Nat} (hb : b < 8) (x : Nat) (hx : x ≠ b) (m' : Sram)
    (hm : m'.undef = m.undef.set b 0 hb) : m'.epoch x = m.epoch x := by
  unfold Sram.epoch
  split
  · rename_i h
    simp only [hm, Vector.get_eq_getElem]
    exact Vector.getElem_set_ne _ _ (fun e => hx e.symm)
  · rfl

theorem State.bankOff_memOk {s : State} (b : Nat) (h : s.memOk) : (s.bankOff b).memOk := by
  refine ⟨?_, h.2⟩
  refine Memory.drop_wf_of (d := s.sram.dflt) (e := (s.bankOff b).sram.dflt) (m := s.sram.cells) (bankOf · == b) h.1 ?_
  intro a ha
  have hne : bankOf a ≠ b := by simpa using ha
  have hep : (s.bankOff b).sram.epoch (bankOf a) = s.sram.epoch (bankOf a) := by
    by_cases hb : b < 8
    · exact Sram.epoch_set s.sram hb (bankOf a) hne _ (by simp [State.bankOff, hb])
    · simp [Sram.epoch, State.bankOff, hb]
  have hr : (s.bankOff b).sram.ring = if b = 5 then none else s.sram.ring := rfl
  have hv : (s.bankOff b).sram.resv = if b = 3 then none else s.sram.resv := rfl
  have hc : (s.bankOff b).sram.cleared = s.sram.cleared := rfl
  have hf : (s.bankOff b).sram.filled a = s.sram.filled a := by
    simp only [Sram.filled, hr, hv]
    have h3 : resvArea a = true → bankOf a = 3 := by
      simp only [resvArea, bankOf, Bool.and_eq_true, decide_eq_true_eq]
      omega
    have h5 : logArea a = true → bankOf a = 5 := by
      simp only [logArea, bankOf, Bool.and_eq_true, decide_eq_true_eq]
      omega
    cases hr : resvArea a with
    | true => simp [show b ≠ 3 from fun e => hne ((h3 hr).trans e.symm)]
    | false =>
      cases hl : logArea a with
      | true => simp [show b ≠ 5 from fun e => hne ((h5 hl).trans e.symm)]
      | false => simp
  simp [Sram.dflt, hf, hep, hc]

theorem State.mapResv_memOk {s : State} (h : s.memOk) : s.mapResv.memOk := ⟨Sram.touchResv_wf h.1, h.2⟩

/-- An entry of the event log changes no word outside the ring. -/
theorem State.addLog_rd {s : State} (kind pairs : String) (h : s.memOk) {a : Nat} (ha : logArea a = false) :
    (s.addLog kind pairs).rd a = s.rd a :=
  Memory.drop_read logArea h.1 ha (by simp [Sram.dflt, Sram.filled, ha, State.addLog, Sram.touchLog, Sram.epoch])

theorem State.mapResv_rd {s : State} (h : s.memOk) {a : Nat} (ha : resvArea a = false) : s.mapResv.rd a = s.rd a :=
  Memory.drop_read resvArea h.1 ha (by simp [Sram.dflt, Sram.filled, ha, State.mapResv, Sram.touchResv, Sram.epoch])

theorem State.addLog_memOk {s : State} (kind pairs : String) (h : s.memOk) : (s.addLog kind pairs).memOk :=
  ⟨Sram.touchLog_wf h.1, h.2⟩

/-! ### Reads through the ECC logic (R367) -/

/-- A read by a requestor writes back what it corrects, counts, and wakes a bank; no word changes. -/
def OnlyEcc (s t : State) : Prop :=
  t = { s with sram := { s.sram with single := t.sram.single }, ecc := t.ecc, pwr := { s.pwr with bankOn := t.pwr.bankOn } }

theorem OnlyEcc.refl (s : State) : OnlyEcc s s := rfl

theorem OnlyEcc.trans {s t u : State} (h : OnlyEcc s t) (g : OnlyEcc t u) : OnlyEcc s u := by
  unfold OnlyEcc at h g ⊢
  rw [g, h]

theorem OnlyEcc.rd {s t : State} (h : OnlyEcc s t) (a : Nat) : t.rd a = s.rd a := by rw [h]; rfl

theorem OnlyEcc.memOk {s t : State} (h : OnlyEcc s t) (m : s.memOk) : t.memOk := by rw [h]; exact m

theorem State.eccRead_onlyEcc (s : State) (req a : Nat) : OnlyEcc s (s.eccRead req a).2.2 := by
  unfold State.eccRead
  simp only
  split
  · rfl
  · split <;> rfl

theorem State.scan_onlyEcc (s : State) (req a n : Nat) : OnlyEcc s (s.scan req a n) := by
  have fold (l : List Nat) (t : State) : OnlyEcc t (l.foldl (fun (t : State) e => (t.eccRead req e).2.2) t) := by
    induction l generalizing t with
    | nil => rfl
    | cons e l ih => exact (t.eccRead_onlyEcc req e).trans (ih _)
  unfold State.scan
  simp only
  split
  · exact (fold ..).trans rfl
  · exact fold ..

theorem State.readsUnit_onlyEcc (s : State) (req u : Nat) : OnlyEcc s (s.readsUnit req u) := by
  unfold State.readsUnit
  split
  · exact (State.scan_onlyEcc ..).trans (State.scan_onlyEcc ..)
  · rfl

theorem State.readsSeg_onlyEcc (s : State) (req g : Nat) : OnlyEcc s (s.readsSeg req g) := by
  unfold State.readsSeg
  split
  · exact State.scan_onlyEcc ..
  · rfl

/-- The memories right after reset. -/
theorem State.reset_memOk : State.reset.memOk := by
  refine ⟨rfl, fun c => ?_⟩
  cases c <;> rfl

end Sys2Proof.Machine
end

