-- ==== Sys2Proof/Laws/Queue.lean ====
section
/-! SUPPORT. The hardware queues as first-in first-out lists, and what an answer to a service call does to its core. -/

namespace Sys2Proof.Machine

open Sys2Proof

/-! ### Queues (R370 to R373) -/

theorem State.queue_setQueue_ne (s : State) {n m : BitVec 5} (q : Queue) (h : n ≠ m) : (s.setQueue n q).queue m = s.queue m := by
  have hn : n.toNat ≠ m.toNat := fun e => h (BitVec.eq_of_toNat_eq e)
  simp only [State.queue, State.setQueue, Vector.get_eq_getElem]
  exact Vector.getElem_set_ne _ _ hn

theorem State.setQueue_setQueue (s : State) (n : BitVec 5) (p q : Queue) : (s.setQueue n p).setQueue n q = s.setQueue n q := by
  simp [State.setQueue]

theorem State.setQueue_queue (s : State) (n : BitVec 5) : s.setQueue n (s.queue n) = s := by
  simp [State.setQueue, State.queue, Vector.get_eq_getElem]

theorem Queue.push_of_room {q : Queue} (v : Word) (h : q.room 1 = true) :
    q.push v = { q with words := q.words ++ [⟨v, false, false⟩] } := by
  have : q.full = false := by
    simp only [Queue.room, Queue.full, Bool.and_eq_true, decide_eq_true_eq] at *
    obtain ⟨h1, h2⟩ := h
    simp only [h1, Bool.not_true, Bool.false_or, decide_eq_false_iff_not]
    omega
  simp [Queue.push, this]

/-- Words pushed into a queue with room for all of them stand at its end in order. -/
theorem State.qpush_all (n : BitVec 5) (ws : List Word) (s : State) (h : (s.queue n).room ws.length = true) :
    ws.foldl (fun s w => s.qpush n w) s =
      s.setQueue n { s.queue n with words := (s.queue n).words ++ ws.map (fun w => ⟨w, false, false⟩) } := by
  induction ws generalizing s with
  | nil =>
    simp only [List.foldl_nil, List.map_nil, List.append_nil]
    exact (State.setQueue_queue s n).symm
  | cons w r ih =>
    obtain ⟨he, hc⟩ : (s.queue n).en = true ∧ (s.queue n).depth + (r.length + 1) ≤ (s.queue n).cap := by
      simpa [Queue.room] using h
    have h1 : (s.queue n).room 1 = true := by
      simp only [Queue.room, Bool.and_eq_true, decide_eq_true_eq]
      exact ⟨he, by omega⟩
    have h2 : ((s.qpush n w).queue n).room r.length = true := by
      rw [State.qpush, State.queue_setQueue, Queue.push_of_room w h1]
      simp only [Queue.room, Queue.depth, Queue.cap, Bool.and_eq_true, decide_eq_true_eq, List.length_append,
        List.length_singleton] at hc ⊢
      exact ⟨he, by omega⟩
    rw [List.foldl_cons, ih _ h2]
    simp only [State.qpush, State.queue_setQueue, State.setQueue_setQueue, Queue.push_of_room w h1]
    simp

/-- An entry is pushed whole or not at all (R375). -/
theorem State.qpushEntry_spec (s : State) (n : BitVec 5) (ws : List Word) :
    s.qpushEntry n ws = if (s.queue n).room ws.length then
      (true, s.setQueue n { s.queue n with words := (s.queue n).words ++ ws.map (fun w => ⟨w, false, false⟩) }) else (false, s) := by
  unfold State.qpushEntry
  split
  · rename_i h
    rw [State.qpush_all n ws s h]
  · rfl

/-- A pop of a queue with a word in front. -/
theorem Queue.pop_cons {q : Queue} {w : QWord} {r : List QWord} (he : q.en = true) (h : q.words = w :: r) :
    q.pop = (⟨w.v, false, w.poison⟩, { q with words := r, last := w.v, poisoned := q.poisoned || w.poison,
                                               cec := if w.single then satInc q.cec else q.cec }) := by
  simp [Queue.pop, Queue.empty, he, h]

/-! ### Answers to service calls (R269, R270) -/

theorem raise_bit (x : Word) : bit (x ||| ((1 : Word) <<< 0)) 0 = true := by
  simp [bit]

theorem status_word (b : Byte) (w : Word) : hiByte (BitVec.ofNat 16 (b.toNat * 256) ||| (w &&& 0x00FF)) = b := by
  apply BitVec.eq_of_getLsbD_eq
  intro i hi
  have hb : (b.toNat * 256).testBit (i + 8) = b.getLsbD i := by
    rw [show b.toNat * 256 = b.toNat * 2 ^ 8 from rfl, Nat.testBit_mul_two_pow]
    simp [BitVec.getLsbD]
  have hm : (0x00FF : Word).getLsbD (i + 8) = false := by
    have : i + 8 < 16 := by omega
    interval_cases i <;> rfl
  rw [Nat.add_comm i 8] at hb hm
  simp only [hiByte, BitVec.getLsbD_setWidth, BitVec.getLsbD_ushiftRight, BitVec.getLsbD_or, BitVec.getLsbD_and, hm,
    BitVec.getLsbD_ofNat, hb, hi, decide_true, Bool.true_and, Bool.and_false, Bool.or_false, (by omega : 8 + i < 16)]

/-- TMON's answer reaches the caller's mailbox, clears BUSY and rings the doorbell of a core that runs. -/
theorem State.reply_answered {s : State} {c : CoreId} (status : Byte) (ws : List Word) (hb : (s.core c).busy = true) :
    Answered s (s.reply c status ws) c status ws := by
  have hc : (s.reply c status ws).core c = (s.core c).answer status ws := by
    simp [State.reply, hb]
  unfold Answered
  rw [hc]
  refine ⟨?_, ?_, ?_, ?_⟩
  · simp only [Core.answer, Core.raise]
    split <;> rfl
  · have : ((s.core c).answer status ws).mbox.get 0 =
        BitVec.ofNat 16 (status.toNat * 256) ||| ((s.core c).mbox.get 0 &&& 0x00FF) := by
      simp only [Core.answer, Core.raise]
      split <;> simp [Vector.get_eq_getElem]
    rw [this, status_word]
  · intro i hi hn
    have hm : ((s.core c).answer status ws).mbox = Vector.ofFn (fun j => if j.val = 0 then
        BitVec.ofNat 16 (status.toNat * 256) ||| ((s.core c).mbox.get 0 &&& 0x00FF) else ws.getD (j.val - 1) 0) := by
      simp only [Core.answer, Core.raise]
      split <;> rfl
    rw [hm, List.getD_eq_getElem?_getD, Vector.getElem?_toList]
    rw [Vector.getElem?_eq_getElem (by omega)]
    simp
  · intro hr
    have hl : (s.core c).run = .running := hr
    simp [Core.answer, Core.raise, Core.live, hl, bit]

end Sys2Proof.Machine
end

