-- ==== Sys2Proof/Laws/Seal.lean ====
section
/-! SUPPORT. Packets in buffers and their sealing: bytes stored are read back, opening undoes sealing (R94), and a sealed
packet stored in a buffer is one that the shipped AFW opens, a beacon too (R94 to R96, R212). -/

namespace Sys2Proof.Machine

open Sys2Proof

theorem bytesOfWords_append (a b : List Word) : bytesOfWords (a ++ b) = bytesOfWords a ++ bytesOfWords b := by
  induction a with
  | nil => rfl
  | cons w r ih => simp [bytesOfWords, ih]

theorem bytesOfWords_length (l : List Word) : (bytesOfWords l).length = 2 * l.length := by
  induction l with
  | nil => rfl
  | cons w r ih => simp only [bytesOfWords, List.length_cons, ih]; omega

theorem hiByte_pair (b c : Byte) : hiByte (BitVec.ofNat 16 (b.toNat * 256 + c.toNat)) = b := by
  apply BitVec.eq_of_toNat_eq
  simp [hiByte, Nat.shiftRight_eq_div_pow]
  omega

theorem loByte_pair (b c : Byte) : loByte (BitVec.ofNat 16 (b.toNat * 256 + c.toNat)) = c := by
  apply BitVec.eq_of_toNat_eq
  simp [loByte]
  omega

/-- An even number of bytes is kept by the words that hold it. -/
theorem bytesOfWords_wordsOfBytes (l : List Byte) (h : l.length % 2 = 0) : bytesOfWords (wordsOfBytes l) = l := by
  match l with
  | [] => rfl
  | [b] => simp at h
  | b :: c :: r =>
    have hr : r.length % 2 = 0 := by simp at h; omega
    simp only [wordsOfBytes, bytesOfWords, hiByte_pair, loByte_pair, bytesOfWords_wordsOfBytes r hr]

theorem wordsOfBytes_length (l : List Byte) : (wordsOfBytes l).length = (l.length + 1) / 2 := by
  match l with
  | [] => rfl
  | [b] => simp [wordsOfBytes]
  | b :: c :: r =>
    simp only [wordsOfBytes, List.length_cons, wordsOfBytes_length r]
    omega

/-- A write of words changes nothing but the words. -/
theorem State.wrN_onlySram {s : State} (a : Nat) (ws : List Word) (h : s.memOk) (he : a + ws.length ≤ sramEnd) :
    OnlySram s (s.wrN a ws) (fun b => a ≤ b ∧ b < a + ws.length) := by
  refine ⟨?_, fun b hb => by rw [State.rd_wrN _ _ _ h he, if_neg hb]⟩
  clear h he
  have pair : ∀ (s : State) (a : Nat) (x y : Word), s.wrPair a x y =
      { s with sram := (s.wrPair a x y).sram, pwr := { s.pwr with bankOn := (s.wrPair a x y).pwr.bankOn } } := by
    intro s a x y
    unfold State.wrPair State.wr
    split <;> try split
    all_goals rfl
  have one : ∀ (s : State) (a : Nat) (x : Word), s.wr a x =
      { s with sram := (s.wr a x).sram, pwr := { s.pwr with bankOn := (s.wr a x).pwr.bankOn } } := by
    intro s a x
    unfold State.wr
    split <;> rfl
  have step : ∀ (s u t : State), u = { s with sram := u.sram, pwr := { s.pwr with bankOn := u.pwr.bankOn } } →
      t = { u with sram := t.sram, pwr := { u.pwr with bankOn := t.pwr.bankOn } } →
      t = { s with sram := t.sram, pwr := { s.pwr with bankOn := t.pwr.bankOn } } := by
    intro s u t hu ht
    rw [hu] at ht
    exact ht
  suffices ∀ n, ∀ (ws : List Word), ws.length ≤ n → ∀ (s : State) (a : Nat), s.wrN a ws =
      { s with sram := (s.wrN a ws).sram, pwr := { s.pwr with bankOn := (s.wrN a ws).pwr.bankOn } } from
    this ws.length ws (Nat.le_refl _) s a
  intro n
  induction n with
  | zero =>
    intro ws hl s a
    have : ws = [] := List.length_eq_zero_iff.mp (by omega)
    subst this
    rfl
  | succ n ih =>
    intro ws hl s a
    match ws, hl with
    | [], _ => rfl
    | [w], _ => exact one s a w
    | w :: v :: r, hl =>
      simp only [List.length_cons] at hl
      rw [State.wrN]
      split
      · exact step _ _ _ (pair s a w v) (ih r (by omega) _ _)
      · exact step _ _ _ (one s a w) (ih (v :: r) (by simp only [List.length_cons]; omega) _ _)

/-- A key whose words are not touched stands. -/
theorem OnlySram.keyBytes {s t : State} {p : Nat → Prop} (h : OnlySram s t p) (e : Nat)
    (hp : ∀ i, i < 8 → ¬ p (keyAddr e + i)) : t.keyBytes e = s.keyBytes e := by
  simp only [State.keyBytes, State.rdN]
  congr 1
  apply List.map_congr_left
  intro i hi
  exact h.2 _ (hp i (List.mem_range.mp hi))

/-- Bytes stored in a buffer are the packet's bytes. -/
theorem State.packetBytes_wrN {s : State} (a : Nat) (bs : List Byte) (h : s.memOk) (hl : bs.length % 2 = 0)
    (he : a + 1 + bs.length / 2 ≤ sramEnd) : (s.wrN (a + 1) (wordsOfBytes bs)).packetBytes a bs.length = bs := by
  have hw : (wordsOfBytes bs).length = bs.length / 2 := by rw [wordsOfBytes_length]; omega
  have hn : (bs.length + 1) / 2 = (wordsOfBytes bs).length := by omega
  rw [State.packetBytes, hn, State.rdN_wrN _ _ h (by omega), bytesOfWords_wordsOfBytes bs hl, List.take_length]

/-! ### CCM -/

theorem xorBytes_twice (p s : List Byte) (h : p.length ≤ s.length) : xorBytes (xorBytes p s) s = p := by
  induction p generalizing s with
  | nil => rfl
  | cons b r ih =>
    match s, h with
    | c :: t, h =>
      simp only [xorBytes, List.zipWith_cons_cons, List.cons.injEq]
      refine ⟨?_, ih t (by simpa using h)⟩
      rw [BitVec.xor_assoc, BitVec.xor_self, BitVec.xor_zero]

/-- Opening gives the payload back when the key stream covers it. -/
theorem ccmOpen_seal (key nonce aad p : List Byte)
    (h : p.length ≤ (ctrStreamAux key nonce 1 ((p.length + 15) / 16)).length) :
    ccmOpenBytes key nonce aad (ccmSealBytes key nonce aad p).1 (ccmSealBytes key nonce aad p).2 = some p := by
  have hl : (ccmCrypt key nonce p).length = p.length := by
    simp only [ccmCrypt, xorBytes, List.length_zipWith]
    omega
  have hp : ccmCrypt key nonce (ccmCrypt key nonce p) = p := by
    conv_lhs => rw [ccmCrypt, hl, ccmCrypt]
    exact xorBytes_twice p _ h
  simp only [ccmOpenBytes, ccmSealBytes, hp, if_true]

/-! ### A sealed packet in a buffer -/

/-- The 144 bytes of a buffer that holds a sealed packet: header and HCRC, ciphertext, MIC, and zeros. -/
def sealedBytes (key nonce hdr crc p : List Byte) : List Byte :=
  let c := ccmSealBytes key nonce hdr p
  let b := hdr ++ crc ++ c.1 ++ c.2
  b ++ List.replicate (144 - b.length) 0

/-- The state with such a packet in the buffer at a. -/
def State.store (s : State) (a : Nat) (key nonce hdr crc p : List Byte) : State :=
  s.wrN (a + 1) (wordsOfBytes (sealedBytes key nonce hdr crc p))

theorem ccmTag_length_le (key nonce aad p : List Byte) : (ccmTag key nonce aad p).length ≤ 4 := by
  simp only [ccmTag, List.length_take]
  omega

theorem ccmCrypt_length_le (key nonce p : List Byte) : (ccmCrypt key nonce p).length ≤ p.length := by
  simp only [ccmCrypt, xorBytes, List.length_zipWith]
  omega

theorem sealedBytes_length {key nonce hdr crc p : List Byte} (h8 : hdr.length = 8) (hc : crc.length = 2)
    (hp : p.length ≤ 128) : (sealedBytes key nonce hdr crc p).length = 144 := by
  have h1 := ccmTag_length_le key nonce hdr p
  have h2 := ccmCrypt_length_le key nonce p
  simp only [sealedBytes, ccmSealBytes, List.length_append, List.length_replicate]
  omega

theorem State.store_onlySram {s : State} {a : Nat} {key nonce hdr crc p : List Byte} (h : s.memOk) (h8 : hdr.length = 8)
    (hc : crc.length = 2) (hp : p.length ≤ 128) (he : a + 73 ≤ sramEnd) :
    OnlySram s (s.store a key nonce hdr crc p) (fun b => a + 1 ≤ b ∧ b < a + 73) := by
  have hw : (wordsOfBytes (sealedBytes key nonce hdr crc p)).length = 72 := by
    rw [wordsOfBytes_length, sealedBytes_length h8 hc hp]
  have := State.wrN_onlySram (a + 1) (wordsOfBytes (sealedBytes key nonce hdr crc p)) h (by omega)
  exact this.mono (fun b hb => by omega)

theorem State.store_memOk {s : State} (a : Nat) (key nonce hdr crc p : List Byte) (h : s.memOk) :
    (s.store a key nonce hdr crc p).memOk := State.wrN_memOk _ _ h

theorem Header.ofBytes_append (h r : List Byte) (h8 : h.length = 8) : Header.ofBytes (h ++ r) = Header.ofBytes h := by
  have g : ∀ i, i < 8 → (h ++ r).getD i 0 = h.getD i 0 := by
    intro i hi
    simp only [List.getD_eq_getElem?_getD]
    rw [List.getElem?_append_left (by omega)]
  simp only [Header.ofBytes, wordAt, g 0 (by omega), g 1 (by omega), g 2 (by omega), g 3 (by omega), g 4 (by omega),
    g 5 (by omega), g 6 (by omega), g 7 (by omega)]

/-- The parts of a stored packet as a reader of its buffer finds them. -/
theorem State.store_parts {s : State} {a : Nat} {key nonce hdr crc p : List Byte} (hm : s.memOk) (h8 : hdr.length = 8)
    (hc : crc.length = 2) (hp : p.length ≤ 128) (he : a + 73 ≤ sramEnd)
    (hs : p.length ≤ (ctrStreamAux key nonce 1 ((p.length + 15) / 16)).length) (ht : (ccmTag key nonce hdr p).length = 4) :
    let b := (s.store a key nonce hdr crc p).packetBytes a 144
    Header.ofBytes b = Header.ofBytes hdr ∧ b.take 8 = hdr ∧ (b.drop 10).take p.length = (ccmSealBytes key nonce hdr p).1 ∧
      (b.drop (10 + p.length)).take 4 = (ccmSealBytes key nonce hdr p).2 := by
  have hl := sealedBytes_length (key := key) (nonce := nonce) h8 hc hp
  have hpb : (s.store a key nonce hdr crc p).packetBytes a 144 = sealedBytes key nonce hdr crc p := by
    have := State.packetBytes_wrN a (sealedBytes key nonce hdr crc p) hm (by omega) (by omega)
    rwa [hl] at this
  have hcl : (ccmCrypt key nonce p).length = p.length := by
    simp only [ccmCrypt, xorBytes, List.length_zipWith]
    omega
  have e1 : sealedBytes key nonce hdr crc p = hdr ++ (crc ++ (ccmCrypt key nonce p ++ (ccmTag key nonce hdr p ++
      List.replicate (144 - (hdr ++ crc ++ ccmCrypt key nonce p ++ ccmTag key nonce hdr p).length) 0))) := by
    simp [sealedBytes, ccmSealBytes]
  have d10 : (sealedBytes key nonce hdr crc p).drop 10 = ccmCrypt key nonce p ++ (ccmTag key nonce hdr p ++
      List.replicate (144 - (hdr ++ crc ++ ccmCrypt key nonce p ++ ccmTag key nonce hdr p).length) 0) := by
    rw [e1, ← List.append_assoc]
    apply List.drop_left'
    simp [h8, hc]
  intro b
  simp only [b, hpb]
  refine ⟨?_, ?_, ?_, ?_⟩
  · rw [e1]; exact Header.ofBytes_append _ _ h8
  · rw [e1]; exact List.take_left' h8
  · rw [d10]; exact List.take_left' hcl
  · rw [← List.drop_drop, d10, List.drop_left' hcl]; exact List.take_left' ht

/-- The shipped AFW opens a packet that was sealed under its source's key, or under the machine's own. -/
theorem State.openUnit_store {s : State} {d : Desc} {type : Nat} {own : Bool} {key hdr crc p : List Byte}
    (hm : s.memOk) (h8 : hdr.length = 8) (hc : crc.length = 2) (hp : p.length ≤ 128) (he : d.buf + 73 ≤ sramEnd)
    (hlen : (Header.ofBytes hdr).len = p.length) (hfok : d.fok = true) (htype : (Header.ofBytes hdr).type = type)
    (hkey : (Header.ofBytes hdr).key = false) (hdst : (Header.ofBytes hdr).dst = s.ownAddr)
    (hfrm : (Header.ofBytes hdr).frm = lo16 d.frame) (hsrc : (Header.ofBytes hdr).src ≠ 0xFFFF)
    (hsrc0 : (Header.ofBytes hdr).src ≠ 0 ∨ own = true) (hpres : keyPresent key = true)
    (hk : s.keyBytes (if own then s.ownAddr.toNat else (Header.ofBytes hdr).src.toNat) = key) (hbuf : d.buf + 73 ≤ keyBase)
    (hs : (ctrStreamAux key (nonceBytes type s.district (Header.ofBytes hdr).src (Header.ofBytes hdr).dst d.frame d.slot 0 0 0)
      1 ((p.length + 15) / 16)).length ≥ p.length)
    (ht : (ccmTag key (nonceBytes type s.district (Header.ofBytes hdr).src (Header.ofBytes hdr).dst d.frame d.slot 0 0 0)
      hdr p).length = 4) :
    (s.store d.buf key (nonceBytes type s.district (Header.ofBytes hdr).src (Header.ofBytes hdr).dst d.frame d.slot 0 0 0)
      hdr crc p).openUnit d type own = some ⟨(Header.ofBytes hdr).src, p⟩ := by
  generalize hn : nonceBytes type s.district (Header.ofBytes hdr).src (Header.ofBytes hdr).dst d.frame d.slot 0 0 0 = nonce at hs ht ⊢
  obtain ⟨hst, hrd⟩ := State.store_onlySram (key := key) (nonce := nonce) hm h8 hc hp he
  obtain ⟨hh, t8, d10, dt⟩ := State.store_parts hm h8 hc hp he hs ht
  have hown : (s.store d.buf key nonce hdr crc p).ownAddr = s.ownAddr := by rw [hst]; rfl
  have hdis : (s.store d.buf key nonce hdr crc p).district = s.district := by rw [hst]
  have hkb : ∀ e, (s.store d.buf key nonce hdr crc p).keyBytes e = s.keyBytes e := by
    exact fun e => OnlySram.keyBytes ⟨hst, hrd⟩ e (fun i _ => by simp only [keyAddr]; omega)
  have open_ := ccmOpen_seal key nonce hdr p hs
  have hsrc0' : ((Header.ofBytes hdr).src == 0 && !own) = false := by
    rcases hsrc0 with h | h
    · rw [beq_false_of_ne h, Bool.false_and]
    · rw [h, Bool.not_true, Bool.and_false]
  unfold State.openUnit
  simp only [hh, hown, hdis, hkb, hfok, htype, hkey, hdst, hfrm, t8, d10, dt, hlen, hk, hpres, hsrc0']
  rw [hdst] at hn
  simp only [hn]
  simp [open_]
  exact hsrc

/-- A relay opens a beacon that was sealed under the broadcast key for the frame and its hop window. -/
theorem State.openBeacon_store {s : State} {r : RelayCfg} {d : Desc} {f : Nat} {key hdr crc p : List Byte}
    (hm : s.memOk) (h8 : hdr.length = 8) (hc : crc.length = 2) (hp : p.length = 15) (he : d.buf + 73 ≤ sramEnd)
    (hlen : (Header.ofBytes hdr).len = 15) (hfok : d.fok = true) (htype : (Header.ofBytes hdr).type = 1)
    (hkey : (Header.ofBytes hdr).key = true) (hdst : (Header.ofBytes hdr).dst = 0xFFFF)
    (hsrc : (Header.ofBytes hdr).src = r.upstream) (hfrm : (Header.ofBytes hdr).frm = lo16 f) (hpres : keyPresent key = true)
    (hk : s.bkey = key) (hbuf : d.buf + 73 ≤ keyBase) (hdepth : (Beacon.ofBytes p).depth + 1 = r.depth)
    (hfh : (Beacon.ofBytes p).frameH = f / 65536)
    (hs : 15 ≤ (ctrStreamAux key (nonceBytes 1 s.district r.upstream 0xFFFF f 0 (r.depth - 1) 0 0) 1 1).length)
    (ht : (ccmTag key (nonceBytes 1 s.district r.upstream 0xFFFF f 0 (r.depth - 1) 0 0) hdr p).length = 4) :
    (s.store d.buf key (nonceBytes 1 s.district r.upstream 0xFFFF f 0 (r.depth - 1) 0 0) hdr crc p).openBeacon r d f =
      some (Beacon.ofBytes p) := by
  generalize hn : nonceBytes 1 s.district r.upstream 0xFFFF f 0 (r.depth - 1) 0 0 = nonce at hs ht ⊢
  have hs' : p.length ≤ (ctrStreamAux key nonce 1 ((p.length + 15) / 16)).length := by rw [hp]; exact hs
  obtain ⟨hst, hrd⟩ := State.store_onlySram (key := key) (nonce := nonce) (crc := crc) (p := p) hm h8 hc (by omega) he
  obtain ⟨hh, t8, d10, dt⟩ := State.store_parts (crc := crc) hm h8 hc (by omega) he hs' ht
  rw [hp] at d10 dt
  have hdis : (s.store d.buf key nonce hdr crc p).district = s.district := by rw [hst]
  have hkb : ∀ e, (s.store d.buf key nonce hdr crc p).keyBytes e = s.keyBytes e := by
    exact fun e => OnlySram.keyBytes ⟨hst, hrd⟩ e (fun i _ => by simp only [keyAddr]; omega)
  have hb : (s.store d.buf key nonce hdr crc p).bkey = key := by
    rw [State.bkey, hkb, hst]; exact hk
  have open_ := ccmOpen_seal key nonce hdr p hs'
  unfold State.openBeacon
  simp only [hh, hdis, hfok, htype, hkey, hdst, hsrc, hlen, hfrm, t8, d10, dt, hb, hn, hpres, List.findSome?_cons]
  simp [open_, hdepth, hfh]

end Sys2Proof.Machine
end

