-- ==== Sys2Proof/Tests/Slice0.lean ====
section
/-! SUPPORT. Tests: ill-formed commands refused, small runs of one command against the spec's own words and tables, and
states that meet the hypotheses of the statements, clause by clause. -/

namespace Sys2Proof.Tests

open Sys2Proof Sys2Proof.Machine

set_option Elab.async false

/-! ### Well-formedness: one ill-formed command for each check -/

theorem test_wf_g : (Instr.fMov .t 8 0).wf = false ∧ (Instr.fMov .a0 8 0).wf = true := by decide
theorem test_wf_low : (Instr.fLshi .a0 8 ⟨1, false⟩).wf = false := by decide
theorem test_wf_mul : (Instr.fMpy .t 0 4 0).wf = false ∧ (Instr.fMvcRead .a0 8 0).wf = false := by decide
theorem test_wf_p : (Instr.fMvpl .t 0 4).wf = false := by decide
theorem test_wf_ac : (Instr.fMvl .t 0 2).wf = false := by decide
theorem test_wf_d : (Instr.fMvd .t 4 0).wf = false := by decide
theorem test_wf_mvi : (Instr.fMvi .a0 1 ⟨32, false⟩).wf = false ∧ (Instr.fMvi .a0 1 ⟨32, true⟩).wf = true := by decide
theorem test_wf_addi : (Instr.fAddi .a0 1 ⟨8, false⟩).wf = false ∧ (Instr.fAddi .t 1 ⟨2048, true⟩).wf = false := by decide
theorem test_wf_shi : (Instr.fAshi .a0 1 ⟨8, false⟩).wf = false := by decide
theorem test_wf_disp : (Instr.fLd .a0 1 (.disp 0 8 false)).wf = false := by decide
theorem test_wf_modify : (Instr.fLd .t 1 (.modify 0 2)).wf = false ∧ (Instr.fLd .a0 1 (.modify 0 2)).wf = true := by decide
theorem test_wf_direct : (Instr.fLdd .a0 1 (.direct 0 false)).wf = false ∧ (Instr.fSt .t 1 (.direct 0 false)).wf = false := by
  decide
theorem test_wf_off : (Instr.fB .t 8 false).wf = false ∧ (Instr.fB .a0 8 false).wf = true := by decide
theorem test_wf_branch_g0 : (Instr.fBz .a0 0 1 false).wf = false := by decide
theorem test_wf_mvp : (Instr.fMvp .t 0 0x10000 2).wf = false ∧ (Instr.fMvp .a0 0 0x10000 2).wf = true := by decide
theorem test_wf_slot : (Instr.fCall .t 0 false 3).wf = false ∧ (Instr.fCall .a0 0 false 0).wf = false := by decide
theorem test_wf_count : (Instr.fRpt .t (.reg 9)).wf = false := by decide

/-- R266: an instruction that no encoding has is refused by name. -/
theorem test_ill_formed_refused : exec (.fMov .t 8 0) State.reset = .refused .notEncodable := rfl

/-! ### Facet cores -/

/-- A state in which core c runs with the registers given. -/
def live (c : CoreId) (g : List Word := []) (more : Core → Core := id) : State :=
  let k := State.reset.core c
  State.reset.setCore c (more { k with run := .running, g := Vector.ofFn (fun i => g.getD i.val 0) })

/-- What a value of core c is after the commands, if each answers a next state. -/
def after {α : Type} (c : CoreId) (f : Core → α) : List Instr → State → Option α
  | [], s => some (f (s.core c))
  | i :: r, s => match exec i s with
    | .next t => after c f r t
    | _ => none

/-- One instruction of core A0 with G1 = x and G2 = y, and the CST given: G3 and CST after it. -/
def alu (i : Instr) (x y : Word) (cst : Word := 0) : Option (Word × Word) :=
  after .a0 (fun k => (k.rg 3, k.cst)) [i] (live .a0 [0, x, y] (fun k => { k with cst := cst }))

theorem test_logic : alu (.fAnd .a0 3 (some 1) 2) 0xF0F0 0xFF00 = some (0xF000, 0) ∧
    alu (.fOr .a0 3 (some 1) 2) 0xF0F0 0xFF00 = some (0xFFF0, 0) ∧
    alu (.fXor .a0 3 (some 1) 2) 0xF0F0 0xFF00 = some (0x0FF0, 0) ∧ alu (.fMov .a0 3 2) 1 2 = some (2, 0) := by decide

theorem test_compare : alu (.fClt .a0 3 (some 1) 2) 0x8000 1 = some (1, 0) ∧
    alu (.fCult .a0 3 (some 1) 2) 0x8000 1 = some (0, 0) ∧ alu (.fCle .a0 3 (some 1) 2) 5 5 = some (1, 0) ∧
    alu (.fCule .a0 3 (some 1) 2) 6 5 = some (0, 0) ∧ alu (.fCeq .a0 3 (some 1) 2) 6 5 = some (0, 0) ∧
    alu (.fCne .a0 3 (some 1) 2) 6 5 = some (1, 0) := by decide

/-- R230: with SAT 1 the nearest value, with SAT 0 the low bits; OV either way. -/
theorem test_sums : alu (.fAdd .a0 3 (some 1) 2) 0x7FFF 1 0 = some (0x8000, 2) ∧
    alu (.fAdd .a0 3 (some 1) 2) 0x7FFF 1 0x8000 = some (0x7FFF, 0x8002) ∧
    alu (.fSub .a0 3 (some 1) 2) 0x8000 1 0x8000 = some (0x8000, 0x8002) ∧
    alu (.fAddu .a0 3 (some 1) 2) 0xFFFF 1 0 = some (0, 2) ∧ alu (.fSubu .a0 3 (some 1) 2) 1 2 0x8000 = some (0, 0x8002) ∧
    alu (.fNeg .a0 3 1) 0x8000 0 0 = some (0x8000, 2) ∧ alu (.fAbs .a0 3 1) 0x8000 0 0x8000 = some (0x7FFF, 0x8002) := by
  decide

/-- R253: by the signed low byte of the register; a right shift by 16 or more gives the sign. -/
theorem test_shifts : alu (.fLsh .a0 3 (some 1) 2) 0x8001 0x00FF = some (0x4000, 0) ∧
    alu (.fAsh .a0 3 (some 1) 2) 0x8000 0x00F0 = some (0xFFFF, 0) ∧
    alu (.fAsh .a0 3 (some 1) 2) 0x4000 1 = some (0x8000, 2) ∧ alu (.fLsh .a0 3 (some 1) 2) 0x4000 16 = some (0, 0) := by
  decide

/-- R254: a zero divisor sets DZ and leaves OV. -/
theorem test_div : alu (.fDiv .a0 3 (some 1) 2) 7 0 = some (0x7FFF, 1) ∧ alu (.fDiv .a0 3 (some 1) 2) 0xFFF9 2 = some (0xFFFC, 0) ∧
    alu (.fDiv .a0 3 (some 1) 2) 0x8000 0xFFFF = some (0x8000, 2) ∧ alu (.fDivu .a0 3 (some 1) 2) 0xFFFF 2 = some (0x7FFF, 0) := by
  decide

/-- R227 and R231: RND 0 floors, 1 rounds half up, 2 half to even. -/
theorem test_rounding : alu (.fDiv .a0 3 (some 1) 2) 5 2 0 = some (2, 0) ∧ alu (.fDiv .a0 3 (some 1) 2) 5 2 0x2000 = some (3, 0x2000) ∧
    alu (.fDiv .a0 3 (some 1) 2) 5 2 0x4000 = some (2, 0x4000) := by decide

theorem test_mvi : alu (.fMvi .a0 3 ⟨0xFFE0, false⟩) 0 0 = some (0xFFE0, 0) ∧
    alu (.fAddi .a0 3 ⟨0x1FFF, true⟩) 0 0 = some (0x1FFF, 0) ∧ alu (.fMvi .a0 0 ⟨5, false⟩) 0 0 = some (0, 0) := by decide

/-- R229: the fractional product of −1 and −1 is held whole in the accumulator. -/
theorem test_products : after .a0 (·.accum 0) [.fMpy .a0 0 1 1] (live .a0 [0, 0x8000]) = some 0x80000000 ∧
    after .a0 (·.accum 0) [.fMpy .a0 0 1 2, .fMac .a0 0 1 2] (live .a0 [0, 3, 5]) = some 60 ∧
    after .a0 (·.accum 1) [.fMpyi .a0 1 1 2] (live .a0 [0, 0xFFFF, 5]) = some 0xFFFFFFFFFB ∧
    after .a0 (·.accum 1) [.fMpyu .a0 1 1 2] (live .a0 [0, 0xFFFF, 5]) = some 0x4FFFB := by decide

/-- R256: with SAT 0 a pair takes the low 32 bits. -/
theorem test_extraction : after .a0 (fun k => (k.rg 2, k.rg 3, k.cst)) [.fMvd .a0 1 0]
      (live .a0 [] (fun k => { k with ac := #v[0x0180000000, 0, 0, 0] })) = some (0, 0x8000, 2) ∧
    after .a0 (·.rg 3) [.fMvh .a0 3 0] (live .a0 [] (fun k => { k with ac := #v[0x12348000, 0, 0, 0], cst := 0x2000 })) =
      some 0x1235 ∧
    after .a0 (·.rg 3) [.fMvg .a0 3 0] (live .a0 [] (fun k => { k with ac := #v[0xFF00000000, 0, 0, 0] })) = some 0xFFFF := by
  decide

/-- R237: MVP reaches the addressing of the second instruction after it. -/
theorem test_mvp : after .a0 (fun k => (k.rp 1, k.age.rp 1)) [.fMvp .a0 1 0x220CC2 2] (live .a0) = some (0, 0x220CC2) ∧
    after .a0 (fun k => k.rp 1) [.fMvp .a0 1 0xF 0, .fNop .a0] (live .a0) = some 0xF := by decide

/-- R260: the instruction after a branch runs, and the branch counts from after the branch. -/
theorem test_branch : after .a0 (·.pc) [.fB .a0 4 false, .fNop .a0] (live .a0) = some 5 ∧
    after .a0 (fun k => (k.pc, k.rg 3)) [.fBz .a0 1 4 false, .fMvi .a0 3 ⟨7, false⟩] (live .a0) = some (5, 7) ∧
    after .a0 (·.pc) [.fBnz .a0 1 4 false, .fNop .a0] (live .a0) = some 2 := by decide

theorem test_call_return : after .a0 (fun k => (k.pc, k.depth)) [.fCall .a0 0x10 false 1, .fNop .a0] (live .a0) = none ∧
    after .a0 (fun k => (k.pc, k.depth, k.top .a0)) [.fCall .a0 8 false 1, .fNop .a0] (live .a0) = some (9, 1, 2) ∧
    after .a0 (fun k => (k.pc, k.depth)) [.fCall .a0 8 false 1, .fNop .a0, .fRet .a0, .fNop .a0] (live .a0) = some (2, 0) := by
  decide

/-- R241: NOP repeated three times. -/
theorem test_repeat : after .a0 (·.pc) [.fRpt .a0 (.imm 2), .fNop .a0, .fNop .a0] (live .a0) = some 1 ∧
    after .a0 (·.pc) [.fRpt .a0 (.imm 2), .fNop .a0, .fNop .a0, .fNop .a0] (live .a0) = some 2 := by decide

/-- R246: a handled TRAP saves the pc and CST and goes to address 2. -/
theorem test_trap : after .a0 (fun k => (k.pc, k.tpc, k.tcause, k.cst)) [.fTrap .a0]
    (live .a0 [] (fun k => { k with pc := 0x40, thand := true, cst := 0x1000 })) = some (2, 0x40, 1, 0x0800) := by decide

/-- R258: a load is seen by the third instruction after it. -/
theorem test_load : after .a0 (·.rg 1) [.fSt .a0 2 (.direct 4 false), .fLd .a0 1 (.direct 4 false), .fNop .a0] (live .a0 [0, 9, 8]) =
      some 9 ∧
    after .a0 (·.rg 1) [.fSt .a0 2 (.direct 4 false), .fLd .a0 1 (.direct 4 false), .fNop .a0, .fNop .a0] (live .a0 [0, 9, 8]) =
      some 8 := by decide

/-! ### States that meet the hypotheses of the statements: Facet cores -/

/-- An application core is ready for an instruction when it is clear and its program RAM holds no error. -/
theorem ready_app {s : State} {c : CoreId} {n : Nat} (hc : c.isT = false) (hk : (s.core c).clear) (hb : (s.core c).pramBad = [])
    (hs : (s.core c).pramSingle = []) : s.ready c n := by
  refine ⟨hk, ?_⟩
  rw [State.fetchOk, hc, if_neg Bool.false_ne_true, hb, hs]
  exact fun i _ => ⟨List.not_mem_nil, List.not_mem_nil⟩

theorem live_ready (c : CoreId) (g : List Word) (n : Nat) (h : n ≤ 0x2200) : (live c g).ready c n := by
  cases c
  case t => exact ⟨⟨rfl, rfl, rfl, rfl⟩, by rw [State.fetchOk]; show 0 + n ≤ 0x2200; omega⟩
  all_goals exact ready_app rfl ⟨rfl, rfl, rfl, rfl⟩ rfl rfl

theorem live_memOk (c : CoreId) (g : List Word) : (live c g).memOk := by
  refine ⟨rfl, fun d => ?_⟩
  cases c <;> cases d <;> rfl

/-- Operands of the arithmetic statements, on both widths, at the ends of their ranges. -/
theorem witness_arithmetic : okAlu .a0 15 (some 15) 15 = true ∧ okAlu .t 7 none 7 = true ∧ okG .t 7 = true ∧
    okLow 7 = true ∧ okShi ⟨0x7F, true⟩ = true ∧ okShi ⟨0xFFF8, false⟩ = true ∧
    (Instr.fMvi .t 7 ⟨0x0FFF, true⟩).wf = true ∧ (Instr.fAddi .a0 15 ⟨0xE000, true⟩).wf = true ∧
    (live .a0).ready .a0 2 ∧ (live .t).ready .t 2 := by
  refine ⟨?_, ?_, ?_, ?_, ?_, ?_, ?_, ?_, live_ready _ _ _ ?_, live_ready _ _ _ ?_⟩ <;> decide

/-- Operands of the accumulator and address register statements. -/
theorem witness_accumulators : okAc .a0 3 = true ∧ okAc .t 1 = true ∧ okMul .a0 7 = true ∧ okMul .t 3 = true ∧
    okD .a0 7 = true ∧ okD .t 3 = true ∧ okP .a0 7 = true ∧ okP .t 3 = true ∧ okMvp .a0 0xFFFFFF 2 = true ∧
    okMvp .t 0xFFF 1 = true ∧ okMvp .a0 15 0 = true ∧ (live .a0).ready .a0 3 := by
  refine ⟨?_, ?_, ?_, ?_, ?_, ?_, ?_, ?_, ?_, ?_, ?_, live_ready _ _ _ ?_⟩ <;> decide

/-- FacetBranches and FacetCalls: a full stack and an empty one with STKTRAP, and a stack with room. -/
theorem witness_flow : okOff .a0 0x7FF0 false = true ∧ okOff .t 0x7FF true = true ∧ okSlot .a0 3 = true ∧ okSlot .t 2 = true ∧
    (let s := live .a0 [] (fun k => { k with stktrap := true, depth := 8 })
     s.ready .a0 3 ∧ (s.core .a0).stktrap = true ∧ 8 ≤ (s.core .a0).depth) ∧
    (let s := live .a0 [] (fun k => { k with stktrap := true })
     s.ready .a0 2 ∧ (s.core .a0).stktrap = true ∧ (s.core .a0).depth = 0) ∧
    (live .a0).ready .a0 3 ∧ ((live .a0).core .a0).depth < 8 := by
  refine ⟨by decide, by decide, by decide, by decide, ⟨ready_app rfl ⟨rfl, rfl, rfl, rfl⟩ rfl rfl, rfl, by decide⟩,
    ⟨ready_app rfl ⟨rfl, rfl, rfl, rfl⟩ rfl rfl, rfl, rfl⟩, live_ready _ _ _ (by decide), by decide⟩

/-- FacetTraps: handled, unhandled, and within a handler; causes that arise with stack traps on and off. -/
theorem witness_traps : (live .a0 [] (fun k => { k with thand := true })).ready .a0 1 ∧
    ((live .a0 [] (fun k => { k with stktrap := true })).core .a0).depth = 0 ∧
    ((live .a0 [] (fun k => { k with stktrap := true, depth := 8 })).core .a0).depth = 8 ∧
    ((live .a0).core .a0).stktrap = false ∧
    ((live .a0 [] (fun k => { k with thand := true })).core .a0).tact = false ∧
    ((live .a0 [] (fun k => { k with thand := true, cst := 0x0800 })).core .a0).tact = true ∧
    ((live .a0).core .a0).thand = false ∧ (live .a0).safe.on = false := by
  refine ⟨ready_app rfl ⟨rfl, rfl, rfl, rfl⟩ rfl rfl, ?_, ?_, ?_, ?_, ?_, ?_, ?_⟩ <;> decide

/-- FacetInterrupts: line 7 alone, and no interrupt enabled. -/
theorem witness_interrupts :
    (let s := live .a0 [] (fun k => { k with cst := 0x1000, imask := 0x0080, ipend := 0x0080 })
     (s.core .a0).clear ∧ bit (s.core .a0).cst 12 = true ∧ bit (s.ipend .a0) 7 = true ∧ bit (s.core .a0).imask 7 = true ∧
       ∀ m, m < 7 → bit (s.ipend .a0) m = false ∨ bit (s.core .a0).imask m = false) ∧
    bit ((live .a0).core .a0).cst 12 = false ∧ ((live .a0).core .a0).repcnt = 0 := by
  refine ⟨⟨⟨rfl, rfl, rfl, rfl⟩, ?_, ?_, ?_, ?_⟩, ?_, ?_⟩ <;> decide

/-- FacetRepeats: a repeat in progress, with one and with several executions left. -/
theorem witness_repeats : (Instr.fRpt .a0 (.reg 15)).wf = true ∧
    (let s := live .a0 [] (fun k => { k with rpt := some ⟨2, false, false⟩ })
     (s.core .a0).run = .running ∧ (s.core .a0).branch = none ∧ (s.core .a0).pending = [] ∧
       (s.core .a0).rpt = some ⟨2, false, false⟩ ∧ s.fetchOk .a0 1) := by
  exact ⟨by decide, rfl, rfl, rfl, rfl, fun i _ => ⟨List.not_mem_nil, List.not_mem_nil⟩⟩

/-- FacetControlRegisters: the traps of a read of TOS and the other registers. -/
theorem witness_control : okMul .a0 7 = true ∧ (live .a0).ready .a0 1 ∧ ((live .a0).core .a0).stktrap = false ∧
    (let s := live .a0 [] (fun k => { k with stktrap := true })
     s.ready .a0 1 ∧ (s.core .a0).stktrap = true ∧ (s.core .a0).depth = 0) ∧
    ((15 : BitVec 4), (0 : Word)) ∈ [((15 : BitVec 4), (0 : Word))] := by
  exact ⟨by decide, live_ready _ _ _ (by decide), rfl, ⟨ready_app rfl ⟨rfl, rfl, rfl, rfl⟩ rfl rfl, rfl, rfl⟩, by decide⟩

/-- Core c runs with P1 = a. -/
def at_ (c : CoreId) (a : Addr) : State := live c [] (fun k => { k with p := k.p.set 1 a, thand := true })

/-- FacetLoads and FacetStores: the last word of the ledger SRAM that A0 may reach, the two next ones, the ends of its
own RAM, the page, and core T's own hole. -/
theorem witness_memory :
    (at_ .a0 0x77FFFF).ready .a0 4 ∧ ((at_ .a0 0x77FFFF).core .a0).addrOf (.inc 1) = 0x77FFFF ∧
    Reads (at_ .a0 0x77FFFF) .a0 0x77FFFF 0 ∧ Forbidden .a0 0x780000 ∧ Forbidden .a0 0xFEFFFF ∧
    LocalAt .a0 0xC00000 0 ∧ LocalAt .a0 0xC00FFF 4095 ∧ ¬ Forbidden .a0 0xC00FFF ∧ Forbidden .a0 0xC01000 ∧
    SramAt (at_ .a0 0x100) .a0 0x100 ∧ SramAt (at_ .a0 0x100) .a0 0x101 ∧
    (Instr.fLd .a0 7 (.inc 1)).wf = true ∧ (Instr.fLdd .a0 7 (.inc 1)).wf = true ∧ (Instr.fSt .a0 7 (.inc 1)).wf = true ∧
    (Instr.fStd .a0 7 (.inc 1)).wf = true ∧ (Instr.fLd .t 7 (.inc 1)).wf = true ∧
    ((at_ .t 0x900000).core .t).addrOf (.inc 1) = 0x900000 := by
  refine ⟨ready_app rfl ⟨rfl, rfl, rfl, rfl⟩ rfl rfl, by decide, .inl ⟨⟨by decide, rfl, nofun⟩, by decide, by decide⟩,
    ?_, ?_, ?_, ?_, ?_, ?_, ⟨by decide, rfl, nofun⟩, ⟨by decide, rfl, nofun⟩, ?_, ?_, ?_, ?_, ?_, ?_⟩ <;>
    first | decide | (unfold Forbidden; decide) | (unfold LocalAt; decide)

/-- FacetLoads: an uncorrectable word. -/
theorem witness_uncorrectable :
    let s := { at_ .a0 0x100 with sram := { State.reset.sram with bad := [eccWord 0x100] } }
    s.ready .a0 3 ∧ SramAt s .a0 0x100 ∧ eccWord ((0x100 : Addr).toNat) ∈ s.sram.bad ∧ (s.core .a0).thand = true ∧
      (s.core .a0).tact = false :=
  ⟨ready_app rfl ⟨rfl, rfl, rfl, rfl⟩ rfl rfl, ⟨by decide, rfl, nofun⟩, by decide, rfl, rfl⟩

/-- FacetLoads: a word of a bank that drains. -/
theorem witness_draining :
    let s := { at_ .a0 0x100000 with pwr := { State.reset.pwr with draining := [.ledger 1] } }
    s.ready .a0 3 ∧ s.drains (bankOf ((0x100000 : Addr).toNat)) = true ∧ (Instr.fLd .a0 7 (.inc 1)).wf = true ∧
      ((s.core .a0).addrOf (.inc 1)).toNat = 0x100000 :=
  ⟨ready_app rfl ⟨rfl, rfl, rfl, rfl⟩ rfl rfl, by decide, by decide, by decide⟩

/-! ### Service calls -/

/-- Core A0 has rung a call with the words given. -/
def ringing (ws : List Word) (f : State → State := id) : State :=
  f (live .a0 [] (fun k => { k with busy := true, mbox := Vector.ofFn (fun i => ws.getD i.val 0) }))

/-- Core A0 rings a call that uses the key of entry 5 on a packet of 24 payload bytes at 0x100, with the nonce of
frame 1. -/
def keyed (code : Word) : State :=
  ringing [code <<< 8, 0x100, 0, 0, 5, 0, 0, 0, 0, 1, 0, 0]
    (fun s => { s with sram := { cells := [(0x101, 0x4018), (0x107, 0x00F1), (0x108, 0x1000), (0x780028, 1)] } })

theorem ringing_memOk (ws : List Word) : (ringing ws).memOk := ⟨rfl, fun d => by cases d <;> rfl⟩

theorem witness_fast_calls : (ringing [0x0300]).calling .a0 0x03 = true ∧ (ringing [0x1500]).calling .a0 0x15 = true ∧
    (ringing [0x2100]).calling .a0 0x21 = true ∧ (ringing [0x2200]).calling .a0 0x22 = true ∧
    (ringing [0x3000]).calling .a0 0x30 = true ∧ (ringing [0x3100]).calling .a0 0x31 = true ∧
    (ringing [0x3200]).calling .a0 0x32 = true ∧ (ringing [0x3200]).safe.on = false ∧
    (ringing [0x3300]).calling .a0 0x33 = true ∧ (ringing [0x4000]).calling .a0 0x40 = true ∧
    (ringing [0x4000]).region = none ∧ (ringing [0x2100]).memOk :=
  ⟨by decide, by decide, by decide, by decide, by decide, by decide, by decide, rfl, by decide, by decide, rfl,
    ringing_memOk _⟩

theorem witness_keyed_calls :
    let s := keyed
    (∀ c, (s c).memOk) ∧ bufOk ((s 0x11).bufArg .a0) (sealWords ((s 0x11).bufLen ((s 0x11).bufArg .a0))) = true ∧
    keyPresent ((s 0x11).keyBytes 5) = true ∧ (s 0x11).calling .a0 0x11 = true ∧
    (s 0x11).nonceSpent ((s 0x11).nonceArg .a0) = false ∧ (s 0x11).keyArg .a0 = some 5 ∧
    (s 0x10).calling .a0 0x10 = true ∧ (s 0x12).calling .a0 0x12 = true ∧ (s 0x12).unitArg .a0 = some 5 ∧
    6 * (((s 0x12).arg .a0 3).toNat + 1) ≤ (s 0x12).bufLen 0x100 ∧ (s 0x13).calling .a0 0x13 = true ∧
    bufOk ((s 0x13).bufArg .a0) 4 = true ∧ (s 0x14).calling .a0 0x14 = true ∧ (s 0x14).bufLen 0x100 = 24 ∧
    (Header.ofBytes ((s 0x14).packetBytes 0x100 18)).type = 4 ∧ ((s 0x14).packetBytes 0x100 18).getD 13 0 = 0xF1 ∧
    ((s 0x14).packetBytes 0x100 18).getD 14 0 = 16 ∧ keyPresent ((s 0x14).keyBytes 0xFFFF) = false := by
  refine ⟨fun c => ⟨rfl, fun d => by cases d <;> rfl⟩, ?_, ?_, ?_, ?_, ?_, ?_, ?_, ?_, ?_, ?_, ?_, ?_, ?_, ?_, ?_, ?_, ?_⟩ <;>
    decide +kernel

/-- CPM: a stored broadcast key for the slot that is not current. -/
theorem witness_bkey_body : keyPresent (({ keyed 0x14 with sram := { cells := [(0x7FFFF8, 1)] } } : State).keyBytes
    (bslotEntry true)) = true := by decide +kernel

/-- A region block that R177 accepts: one range, 863 MHz to 870 MHz, 10 % of an hour. -/
def region1 : List Word :=
  [0x1001, 0, 0xAEF0, 0x0083, 0xC060, 0x0084, 80, 100, 3600, 0, 5000, 1000] ++ List.replicate 70 0 ++ [0xE07C]

theorem crc16_append (c : Word) (a b : List Byte) : crc16 c (a ++ b) = crc16 (crc16 c a) b := List.foldl_append

theorem region1_crc : crc16 0xFFFF (bytesOfWords (region1.take 82)) = 0xE07C := by
  have split : bytesOfWords (region1.take 82) = bytesOfWords (region1.take 12) ++ (List.replicate 20 0 ++ (List.replicate 20 0 ++
    (List.replicate 20 0 ++ (List.replicate 20 0 ++ (List.replicate 20 0 ++ (List.replicate 20 0 ++ List.replicate 20 0)))))) := by
    decide +kernel
  have h0 : crc16 0xFFFF (bytesOfWords (region1.take 12)) = 53276 := by decide +kernel
  have h1 : crc16 53276 (List.replicate 20 0) = 21689 := by decide +kernel
  have h2 : crc16 21689 (List.replicate 20 0) = 36093 := by decide +kernel
  have h3 : crc16 36093 (List.replicate 20 0) = 1258 := by decide +kernel
  have h4 : crc16 1258 (List.replicate 20 0) = 55786 := by decide +kernel
  have h5 : crc16 55786 (List.replicate 20 0) = 15337 := by decide +kernel
  have h6 : crc16 15337 (List.replicate 20 0) = 9151 := by decide +kernel
  have h7 : crc16 9151 (List.replicate 20 0) = 57468 := by decide +kernel
  rw [split]
  simp only [crc16_append, h0, h1, h2, h3, h4, h5, h6, h7]

theorem region1_valid : regionValid region1 = true := by
  unfold regionValid
  rw [region1_crc]
  decide +kernel

/-- SlowCalls: buffers, window centres at both ends of R139's range and beside them, the image and the region. -/
theorem witness_slow_calls :
    (ringing [0x0100]).calling .a0 0x01 = true ∧ bufOk ((ringing [0x0100]).bufArg .a0) 1280 = true ∧
    (ringing [0x0100]).seq.pend = none ∧ (ringing [0x0200, 0, 0xD25F, 4]).calling .a0 0x02 = true ∧
    pair32 0xD25F 4 < 0x04D260 ∧ pair32 0xD260 4 = 0x04D260 ∧ pair32 0x3D80 0x92 = 0x923D80 ∧
    (ringing [0x0200, 1, 0xD260, 4]).windowFault true 0x04D260 = none ∧
    (ringing [0x0200, 0, 0x3D80, 0x92]).windowFault false 0x923D80 = none ∧
    (ringing [0x2000]).calling .a0 0x20 = true ∧ bufOk ((ringing [0x2000]).bufArg .a0) 16 = true ∧
    (ringing [0x2000]).otp.secret = none ∧ (ringing [0x3400]).calling .a0 0x34 = true ∧
    ¬ ((ringing [0x3400]).img.valid = true ∧ (ringing [0x3400]).otp.svn ≤ (ringing [0x3400]).img.svn) ∧
    (ringing [0x3500]).calling .a0 0x35 = true ∧ bufOk ((ringing [0x3500]).bufArg .a0) 83 = true ∧ regionValid [] = false ∧
    (ringing [0x3600]).calling .a0 0x36 = true ∧ (ringing [0x3700]).calling .a0 0x37 = true ∧
    (ringing [0x3700]).otp.keyHash = none ∧ regionValid region1 = true := by
  refine ⟨?_, ?_, ?_, ?_, ?_, ?_, ?_, ?_, ?_, ?_, ?_, ?_, ?_, ?_, ?_, ?_, ?_, ?_, ?_, ?_, region1_valid⟩ <;> decide +kernel

/-- CallProtocol: an answer that waits, a code that no call has, and a call in progress. -/
theorem witness_protocol :
    (let s := ringing [0x0200] (fun s => { s with sys := { s.sys with slow := [⟨.a0, 0, []⟩] } })
     s.sys.slow.find? (fun r => r.caller == .a0) = some ⟨.a0, 0, []⟩ ∧ (s.core .a0).busy = true) ∧
    (let s := ringing [0xFF00]
     (s.core .a0).busy = true ∧ s.sys.slow.find? (fun r => r.caller == CoreId.a0) = none ∧
       hiByte ((s.core .a0).mbox.get 0) ∉ knownCodes) := by
  refine ⟨⟨?_, ?_⟩, ?_, ?_, ?_⟩ <;> decide

/-! ### Queues, registers, clock, sequencer -/

/-- A queue of 64 words at base 0, with the words given. -/
def fifo (ws : List Word) (n : Nat := 64) : Queue :=
  { en := true, words := (ws ++ List.replicate (n - 64) 7).map (fun v => ⟨v, false, false⟩) }

/-- R370 to R373: the front of the queue is popped, and a pop of an empty queue sets UNDER. -/
theorem test_queue : (match exec (.queuePop .a0 3) (State.reset.setQueue 3 (fifo [5, 6])) with
      | .next t => some (((t.queue 3).last, (t.queue 3).words.map (·.v), (t.queue 3).under))
      | _ => none) = some (5, [6], false) ∧
    (match exec (.queuePop .a0 3) (State.reset.setQueue 3 (fifo [])) with
      | .next t => some (((t.queue 3).under, (t.core .a0).lpop))
      | _ => none) = some (true, 0x4003) := by decide +kernel

/-- QueueDiscipline: an enabled queue with words, an empty one, one that is off, and settings that clash, by another
queue's area and by the end of the queue RAM. -/
theorem witness_queues :
    (let q := State.reset.setQueue 3 (fifo [5, 6])
     (q.queue 3).en = true ∧ (q.queue 3).words = ⟨5, false, false⟩ :: [⟨6, false, false⟩] ∧
       (q.queue 2).en = false ∧ (q.queue 3).words.length < 64 ∧
       (∃ m, (q.queue m).en = true ∧ m ≠ 2 ∧ (q.queue 2).base.toNat ≤ (q.queue m).base.toNat + (q.queue m).sizeM1.toNat ∧
         (q.queue m).base.toNat ≤ (q.queue 2).base.toNat + 0)) ∧
    511 < (511 : BitVec 9).toNat + (1 : BitVec 9).toNat ∧ bit (0x8000 : Word) 15 = true ∧ bit (0x0000 : Word) 15 = false := by
  refine ⟨⟨?_, ?_, ?_, ?_, 3, ?_, ?_, ?_, ?_⟩, ?_, ?_, ?_⟩ <;> decide +kernel

/-- RegisterSideEffects and RegisterWrites: one address of each kind. -/
theorem witness_registers : isReadClear 0x4003 = true ∧ (0x7400, 0x83FF) ∈ storedRegs ∧ (0x1005, 0x4000) ∈ stickyRegs ∧
    readOnly 0x000 = true ∧ tmonOnlyWrite 0x2003 = true ∧ tmonOnly 0x1400 = true ∧ CoreId.a0.isT = false := by decide +kernel

/-- WatchdogRules: the last core of two to write the key, the first of two, and a watchdog about to expire. -/
def dog (kicked left : Nat) : State :=
  { State.reset with clk := { State.reset.clk with lock := true },
                     sys := { State.reset.sys with wdOn := true, wdTicks := 96, wdLeft := BitVec.ofNat 16 left,
                                                   released := 3, kicked := BitVec.ofNat 6 kicked } }

theorem witness_watchdog :
    (dog 2 5).sys.wdOn = true ∧ (dog 2 5).sys.released.getLsbD CoreId.a0.num = true ∧
    (∀ n, n < 6 → (dog 2 5).sys.kicked.getLsbD n = true → (dog 2 5).sys.released.getLsbD n = true) ∧
    (∀ n, n < 6 → (dog 2 5).sys.released.getLsbD n = true → n = CoreId.a0.num ∨ (dog 2 5).sys.kicked.getLsbD n = true) ∧
    (∃ n, n < 6 ∧ (dog 0 5).sys.released.getLsbD n = true ∧ n ≠ CoreId.a0.num ∧ (dog 0 5).sys.kicked.getLsbD n = false) ∧
    (dog 0 1).safe.on = false ∧ (dog 0 1).pending = [] ∧ (dog 0 1).clk.lock = true ∧ (dog 0 1).interp.wait = none ∧
    (dog 0 1).sys.wdLeft.toNat ≤ 1 ∧ 1 < (dog 0 2).sys.wdLeft.toNat := by
  refine ⟨?_, ?_, ?_, ?_, ⟨1, ?_⟩, ?_, ?_, ?_, ?_, ?_, ?_⟩ <;> decide

/-- CoreSignals: a soft interrupt for a running core, a queue event with each condition, DOZE with and without a pending
line. -/
theorem witness_signals :
    ((live .a1).core .a1).run = .running ∧ bit (0x0002 : Word) CoreId.a1.num = true ∧
    field (0x3000 : Word) 13 12 = 3 ∧ field (0x2000 : Word) 13 12 ≠ 3 ∧
    (let s := { live .a0 with pwr := { State.reset.pwr with state := .doze } }
     (s.core .a0).run = .running ∧ s.pwr.state = .doze ∧ ¬ ((s.ipend .a0 &&& (s.core .a0).imask) ≠ 0)) ∧
    (let s := live .a0 [] (fun k => { k with run := .gated, imask := 0x10, ipend := 0x10 })
     (s.core .a0).run = .gated ∧ (s.ipend .a0 &&& (s.core .a0).imask) ≠ 0) := by
  refine ⟨?_, ?_, ?_, ?_, ⟨?_, ?_, ?_⟩, ?_, ?_⟩ <;> decide +kernel

/-- A transmission of slot 2 in frame 0 and range 0. -/
def tx0 (ph : TxPhase) (onair : Nat := 424) (cut : Option Nat := none) : Tx :=
  { slot := 2, frame := 0, range := 0, inRange := true, tag := 0, pwr := 0, fec := false, cls := 1, bytes := [], wrun := 0,
    wcode := 0, onair := onair, start := 16, carrier := 0, temp := 0, vpa := 0, paSet := 0, phase := ph, cutAt := cut }

/-- A region in force, a synthesiser in lock, and what else is given. -/
def radio (f : State → State := id) : State :=
  f { State.reset with otp := { State.reset.otp with region := some region1 }, tx := { State.reset.tx with regLock := true },
                       clk := { State.reset.clk with lock := true, xordy := true },
                       syn := { State.reset.syn with on := true, lock := true } }

theorem witness_clock : (radio (fun s => { s with seq := { s.seq with tx := some (tx0 .onAir) } })).clk.lock = true ∧
    radio.clk.xordy = true ∧ radio.pwr.state = .run ∧ field (0x0F00 : Word) 11 0 = 3840 ∧ field (0x0F01 : Word) 11 0 = 3841 := by
  refine ⟨?_, ?_, ?_, ?_, ?_⟩ <;> decide +kernel

/-- A plan whose slot 2 is a D slot with an enabled entry. -/
def dPlan : Memory := [(2, 0x0002)]

/-- CommitDecision and TransmitCourse: the window of slot 0 is open; entries that send and one that does not. -/
def window (arm : BitVec 8) (f : State → State := id) : State :=
  radio (fun s => f { s with seq := { s.seq with cca := some ⟨0, 0, 0⟩, arm := arm, cur := some [(1, 0x1400), (0x10, 0x8000)] } })

theorem witness_commit : (window 1).seq.stopped = false ∧ (window 1).seq.cca = some ⟨0, 0, 0⟩ ∧
    (planSlot ((window 1).slotPlan 0) 0).role ≠ roleW ∧ (window 0).seq.arm.getLsbD 0 = false ∧
    (window 1).seq.arm.getLsbD 0 = true ∧ (window 1).slotSends 0 = true ∧ State.reset.slotSends 0 = false ∧
    State.reset.tablesOk ∧ ccaEnergy ⟨[-400], [-400], false, false⟩ < ccaEnergy ⟨[-300, -300], [], false, false⟩ := by
  refine ⟨?_, ?_, ?_, ?_, ?_, ?_, ?_, ⟨?_, ?_, ?_⟩, ?_⟩ <;> decide +kernel

theorem witness_course : (let s := radio (fun s => { s with seq := { s.seq with tx := some (tx0 .onAir 10000) } })
     (s.seq.tx = some (tx0 .onAir 10000)) ∧ (regionRange (s.region.getD []) 0).txmax * 96 < (tx0 .onAir 10000).onair * 10) ∧
    (tx0 .onAir).onair * 10 ≤ (regionRange (radio.region.getD []) 0).txmax * 96 ∧
    (tx0 .committed).phase = .committed ∧ (tx0 .rampDown 424 (some 10)).cutAt = some 10 ∧ radio.powerHeld = false ∧
    (let s := { radio with syn := { State.reset.syn with on := true } }
     s.syn.on = true ∧ s.syn.lock = false) := by
  refine ⟨⟨?_, ?_⟩, ?_, ?_, ?_, ?_, ?_, ?_⟩ <;> decide +kernel

/-- DutyStore: a store with one charge, a limited range, a transmission that passes and one that does not. -/
theorem witness_duty : let g : Gate := { used := [⟨0, 5, 10⟩] }
    let r := regionRange region1 0
    g.single ∧ r.duty ≠ 1000 ∧ r.dwin ≤ 3600 ∧ g.passes r 0 6 100 = true ∧ g.passes r 0 6 100000000 = false := by
  refine ⟨?_, ?_, ?_, ?_, ?_⟩ <;> first | decide +kernel | (unfold Gate.single; decide +kernel)

/-- SlotBoundaries and GainAndNoise: the sequencer runs, a new centre waits, a fixed gain, and both kinds of gain
setting. -/
theorem witness_receiver :
    (let s := { State.reset with rxw := { State.reset.rxw with cen0 := 8630000, agcA := 0xBC14 } }
     s.seq.stopped = false ∧ s.rxw.cen0 ≠ s.rxw.cenAct0 ∧ field s.rxw.agcA 15 14 = 2 ∧ field s.rxw.agcA 5 2 = 5) ∧
    { State.reset with seq := { State.reset.seq with stopped := true } }.seq.stopped = true ∧
    field (0xFC00 : Word) 15 14 = 3 ∧ field (0x3C2C : Word) 9 6 ≤ field (0x3C2C : Word) 13 10 ∧
    field (0x0040 : Word) 13 10 < field (0x0040 : Word) 9 6 := by
  refine ⟨⟨?_, ?_, ?_, ?_⟩, ?_, ?_, ?_, ?_⟩ <;> decide +kernel

theorem witness_sequencer : State.reset.seq.armBlock = false ∧ field (60 : Word) 11 0 = 60 ∧ field (3600 : Word) 11 0 = 3600 ∧
    field (59 : Word) 11 0 < 60 ∧ field (1008 : Word) 9 0 = 1008 ∧ 1008 < field (1009 : Word) 9 0 ∧
    (let s := { State.reset with seq := { State.reset.seq with stepFrame := some 0 } }
     s.seq.stepFrame = some s.seq.frame) ∧ State.reset.seq.stepFrame ≠ some State.reset.seq.frame := by
  refine ⟨?_, ?_, ?_, ?_, ?_, ?_, ?_, ?_⟩ <;> decide +kernel

/-- PlanLifecycle: a plan that passes, one that R39 rejects, and a second rejection. -/
def withPlan (p : Memory) (rej : Nat := 0) : State :=
  { State.reset with seq := { State.reset.seq with pend := some ⟨p, 0, some .a0, false, false, none⟩, rejInCycle := rej } }

theorem witness_plans : (withPlan []).seq.pend = some ⟨[], 0, some .a0, false, false, none⟩ ∧ (withPlan []).safe.on = false ∧
    (planFault none (withPlan []).cenNew [] ≠ none) ∧ (withPlan [] 1).seq.rejInCycle = 1 ∧ State.reset.seq.pend = none := by
  refine ⟨?_, ?_, ?_, ?_, ?_⟩ <;> decide +kernel

/-- FrameBoundaries: the ends of a Cycle and of a rotation, and a plan that waits. -/
theorem witness_frames :
    (let s := { State.reset with seq := { State.reset.seq with fic := 899, cir := 671, next := some [] } }
     s.pwr.state ≠ .sleep ∧ s.seq.cycLen.toNat ≤ s.seq.fic.toNat + 1 ∧ s.seq.rotLen.toNat ≤ s.seq.cir.toNat + 1 ∧
       s.isRelay = false ∧ s.seq.stopped = false ∧ s.seq.next = some []) ∧
    ¬ (State.reset.seq.cycLen.toNat ≤ State.reset.seq.fic.toNat + 1) ∧
    { State.reset with pwr := { State.reset.pwr with state := .sleep } }.pwr.state = .sleep := by
  refine ⟨⟨?_, ?_, ?_, ?_, ?_, ?_⟩, ?_, ?_⟩ <;> decide +kernel

/-! ### Time, reception, delivery -/

/-- The shipped AFW is up, as coordinator, with a region in force and a locked clock. -/
def up (f : State → State := id) : State :=
  radio (fun s => f { s with afw := { s.afw with ready := true } })

/-- A machine in Relay mode: address 0x10, depth 1, under the coordinator. -/
def relayUp (f : State → State := id) : State :=
  up (fun s => f { s with aon := { s.aon with mode := some (RelayCfg.toBlock ⟨0x10, 1, 0, 8650000, 8650000, 0, 1⟩) } })

theorem up_memOk : up.memOk := ⟨rfl, fun d => by cases d <;> rfl⟩

/-- PpsAlignment: edges that are not followed, a first edge, one too early, and good edges near and far from the frame
boundary. -/
def pps (last : Option Nat) (run : Nat) : State :=
  up (fun s => { s with seq := { s.seq with ppsenAct := true, absRef := 38400000, lastPps := last, ppsRun := run } })

theorem witness_pps : (pps none 0).afw.ready = true ∧ (pps none 0).seq.ppsenAct = true ∧ (pps none 0).isRelay = false ∧
    (pps none 0).safe.on = false ∧ 38400000 + (0 : BitVec 26).toNat < 30000000 + 38400000 - 1920 ∧
    (let at_ := (pps (some 4000) 2).seq.absRef + (4000 : BitVec 26).toNat
     4000 + 38400000 - 1920 ≤ at_ ∧ at_ ≤ 4000 + 38400000 + 1920) ∧
    (pps (some 4001) 2).seq.stepFrame = none ∧ (pps (some 4001) 2).afw.orders = [] ∧ up.seq.ppsenAct = false := by
  refine ⟨?_, ?_, ?_, ?_, ?_, ⟨?_, ?_⟩, ?_, ?_, ?_⟩ <;> decide +kernel

/-- RelayTime: a relay in SEARCH, one in sync, and one out of sync for 120 frames. -/
def inSync (r : BitVec 2) (hold : Nat := 0) : State :=
  relayUp (fun s => { s with seq := { s.seq with rstate := r, hold := hold },
                             sram := { cells := [(keyAddr 0, 1)] } })

theorem witness_relay_time :
    (∃ r, (inSync 1).relay = some r ∧ r.depth = 1) ∧ (inSync 1).afw.ready = true ∧ (inSync 1).safe.on = false ∧
    (inSync 1).seq.rstate.toNat ≤ 1 ∧ ¬ (inSync 2).seq.rstate.toNat ≤ 1 ∧ (inSync 2).isRelay = true ∧ up.isRelay = false ∧
    (inSync 3 120).seq.rstate = 3 ∧ (inSync 3 120).seq.orphan = false ∧ 120 ≤ (inSync 3 120).seq.hold ∧
    (inSync 3 119).seq.hold < 120 := by
  refine ⟨⟨⟨0x10, 1, 0, 8650000, 8650000, 0, 1⟩, ?_, ?_⟩, ?_, ?_, ?_, ?_, ?_, ?_, ?_, ?_, ?_, ?_⟩ <;> decide +kernel

/-- RelayTime: the beacon of frame 0 from the coordinator, sealed under the broadcast key, in a buffer that a descriptor of
slot 0 names. -/
def beaconKey : List Byte := List.replicate 15 0 ++ [1]
def beaconHdr : List Byte := headerCore 1 true 15 0xFFFF 0 0
def descB : List Word := [0x8000, 0x0000, 0, 0, 0, 0, 0, 2]
def relayHears (r : BitVec 2) : State :=
  relayUp (fun s => { s with seq := { s.seq with rstate := r }, sram := { cells := [(keyAddr 0 + 7, 1)] } })
def beaconIn (r : BitVec 2) : State :=
  (relayHears r).store 256 beaconKey (nonceBytes 1 0 0 0xFFFF 0 0 0 0 0) beaconHdr [0, 0] (List.replicate 15 0)
def relay0x10 : RelayCfg := ⟨0x10, 1, 0, 8650000, 8650000, 0, 1⟩

/-- A valid beacon, as a relay in sync and one in SEARCH take it; and a buffer that holds none. -/
theorem witness_open_beacon (r : BitVec 2) :
    (beaconIn r).openBeacon relay0x10 ((relayHears r).desc descB) 0 = some (Beacon.ofBytes (List.replicate 15 0)) :=
  State.openBeacon_store (s := relayHears r) (r := relay0x10) (d := (relayHears r).desc descB) (f := 0) (key := beaconKey)
    (hdr := beaconHdr) (crc := [0, 0]) (p := List.replicate 15 0) ⟨rfl, fun d => by cases d <;> rfl⟩ rfl rfl rfl
    (by decide +kernel +revert) (by decide) (by decide +kernel +revert) (by decide) (by decide) (by decide) (by decide) (by decide)
    (by decide) (by decide +kernel +revert) (by decide +kernel +revert) (by decide) (by decide) (by decide +kernel +revert)
    (by decide +kernel +revert)

theorem witness_beacon (r : BitVec 2) : (beaconIn r).relay = some relay0x10 ∧ (beaconIn r).searching = decide (r.toNat ≤ 1) := by
  obtain ⟨he, -⟩ := State.store_onlySram (s := relayHears r) (a := 256) (key := beaconKey)
    (nonce := nonceBytes 1 0 0 0xFFFF 0 0 0 0 0) (hdr := beaconHdr) (crc := [0, 0]) (p := List.replicate 15 0)
    ⟨rfl, fun d => by cases d <;> rfl⟩ rfl rfl (by decide) (by decide)
  exact ⟨by rw [beaconIn, he]; rfl, by rw [beaconIn, he]; exact Bool.and_true _⟩

theorem witness_search : ∃ x, (beaconIn 1).searchBeacon relay0x10 ((relayHears 1).desc descB) = some x := by
  have hh : Header.ofBytes ((beaconIn 1).packetBytes 256 144) = Header.ofBytes beaconHdr :=
    (State.store_parts (s := relayHears 1) (a := 256) (key := beaconKey) (hdr := beaconHdr) (crc := [0, 0])
      (p := List.replicate 15 0) ⟨rfl, fun d => by cases d <;> rfl⟩ rfl rfl (by decide) (by decide) (by decide +kernel)
      (by decide +kernel)).1
  have hf : ((relayHears 1).desc descB).buf = 256 := by decide
  refine Option.isSome_iff_exists.mp (List.findSome?_isSome_iff.mpr ⟨0, List.mem_range.mpr (by decide), ?_⟩)
  simp only [hf, hh, show 65536 * 0 + (Header.ofBytes beaconHdr).frm.toNat = 0 by decide, witness_open_beacon 1, Option.map_some,
    Option.isSome_some]

theorem witness_no_beacon : (relayHears 2).openBeacon relay0x10 ((relayHears 2).desc descB) 0 = none ∧ (relayHears 2).searching = false ∧
    (relayHears 1).searching = true := by
  refine ⟨?_, ?_, ?_⟩ <;> decide +kernel

/-- LanePackets: a U slot with lane 5 mapped, W0 on, a free buffer at hand and a queue for descriptors. -/
def uSlot (dst : Word := 0) : State :=
  up (fun s => ({ s with seq := { s.seq with slot := 1, cur := some [(2, 0x3000), (0x185, 0x9000)] },
                         rxw := { s.rxw with cen0 := 8650000, cenAct0 := 8650000 },
                         lane := { s.lane with bufqAct := 4, cfgAct := [(5, 6)], ownAct := dst } }.setQueue 4 (fifo [2])).setQueue 6 (fifo []))

/-- The header of a report of 17 bytes from unit 5 to the coordinator, and a branch that hears a packet beginning with
it, with n symbols of the sync word wrong. -/
def hdr5 : List Byte := [52, 17, 0, 0, 0, 5, 0, 0]
def report17 : List Byte := hdr5 ++ [28, 101] ++ List.replicate 23 0
def branch (n : Nat) (snr : Int) : RxBranch :=
  { sync := BitVec.ofNat 24 (syncWord 0) ^^^ BitVec.ofNat 24 (2 ^ n - 1), snr := snr, clipSync := false, clip := false,
    rssi := -60, foff := 0, outer := 4800, devs := (symbols4 (whiten (bitsOfBytes report17))).map (deviation 1) }
def heard (first : Nat) (n : Nat := 2) : RxPacket := { syncEnd := first + 896, a := branch n 10, b := branch 0 20 }

theorem witness_lanes : uSlot.memOk ∧ uSlot.isRelay = false ∧ uSlot.safe.on = false ∧ uSlot.clk.lock = true ∧
    uSlot.clk.rxHold = false ∧ uSlot.seq.stopped = false ∧ uSlot.curRole = roleU ∧ (uSlot.laneMap 5).en = true ∧
    (uSlot.laneMap 5).width = 1 ∧ uSlot.cen (uSlot.laneMap 5).win ≠ 0 ∧ uSlot.tx.txOn = false ∧ uSlot.rxw.blankEnd = 0 ∧
    up.cen (up.laneMap 5).win = 0 ∧ rxStart (heard 192) 1 = 12 * 16 ∧ rxStart (heard 320) 1 = 20 * 16 ∧
    syncErrors uSlot.district (heard 192).a.sync ≤ 2 ∧ ¬ syncErrors uSlot.district (heard 192 3).a.sync ≤ 2 ∧
    ((5, 0) : Nat × Nat) ∉ uSlot.lane.taken ∧ field (uSlot.lane.cfgAct.get0 5) 15 14 = 0 ∧
    (uSlot 7).lane.ownAct = 7 ∧ bit (uSlot 7).lane.filtAct 15 = false ∧
    (uSlot.queue 4).en = true ∧ (uSlot.queue 4).words = [⟨2, false, false⟩] ∧ (2 : Word).toNat * 128 < keyBase ∧
    (uSlot.queue 6).room 8 = true := by
  refine ⟨⟨rfl, fun d => by cases d <;> rfl⟩, ?_, ?_, ?_, ?_, ?_, ?_, ?_, ?_, ?_, ?_, ?_, ?_, ?_, ?_, ?_, ?_, ?_, ?_, ?_, ?_, ?_, ?_, ?_, ?_⟩ <;>
    decide +kernel

/-- LanePackets: a header that passes and one that does not, a packet whole and one cut at Tick 1,200, and an address that
is the machine's own. -/
theorem witness_lane_bytes :
    receivedBytes false 10 4800 (devsInSlot (heard 192) true 1) = hdr5 ++ [28, 101] ∧ headerOk 1 (hdr5 ++ [28, 101]) = true ∧
    headerOk 1 (receivedBytes false 10 4800 (devsInSlot (heard 192) true 1 |>.drop 4)) = false ∧
    (storedPacket false 4800 (devsInSlot (heard 192) true 1)).1 = report17 ∧
    (storedPacket false 4800 ((devsInSlot (heard 192) true 1).take 60)).2 = false ∧ wordAt report17 2 = uSlot.lane.ownAct ∧
    wordAt report17 2 ≠ (uSlot 7).lane.ownAct := by
  refine ⟨?_, ?_, ?_, ?_, ?_, ?_, ?_⟩ <;> decide +kernel

/-- A try in frame 0, slot 2, whose packet was sent. -/
def try0 (at_ : Nat) (res : Option TryOutcome := none) : Try :=
  { frame := 0, slot := 2, txr := 0, down := [], up := [], commit := 2381, outcomeAt := at_, pos := some 0, result := res,
    placed := true, sent := true }
def order0 (ts : List Try) : OrderX :=
  { ticket := 7, idx := 0, unit := 5, act := 3, tries := ts, body := [], port := 0, netcfg := none, keySend := false }
def withOrder (ts : List Try) (f : State → State := id) : State :=
  up (fun s => f { s with seq := { s.seq with tick := 4800 }, afw := { s.afw with orders := [order0 ts] } })

/-- A descriptor of slot 2, frame 0, buffer 2. -/
def desc2 : List Word := [0x8000, 0x0040, 0, 0, 0, 0, 0, 2]

/-- OrderOutcomes: an ack for a try and one for none; a try not due, one due, the last one due; a relay's entry; a
watermark that has passed and one that has not. -/
theorem witness_outcomes :
    (let s := withOrder [try0 3600]
     s.ackTry (s.desc desc2) = some (order0 [try0 3600], 0)) ∧ up.ackTry (up.desc desc2) = none ∧
    (withOrder [try0 3600]).orderOf 7 = some (order0 [try0 3600]) ∧
    ((order0 [try0 9600]).tries.filter (fun t => decide (t.outcomeAt ≤ (withOrder []).now))).length = 0 ∧
    ((order0 [try0 4800, try0 9600]).tries.filter (fun t => decide (t.outcomeAt ≤ (withOrder []).now))).length = 1 ∧
    (∀ y, y ∈ (order0 [try0 3600 (some .blocked)]).tries → y.result = some .blocked) ∧
    (∃ y, y ∈ (order0 [try0 3600]).tries ∧ y.result ≠ some .blocked) ∧
    (let s := relayUp (fun s => { s with seq := { s.seq with tick := 4800 }, afw := { s.afw with relayEntries :=
        [⟨5, 7, 0, 0, [], 0, 2, none, true, none, 0⟩] } })
     s.isRelay = true ∧ s.afw.relayEntries.find? (fun e => e.ticket == 7 &&
       decide (9600 * e.frame + 1200 * (e.slot + 1) ≤ s.now)) = some ⟨5, 7, 0, 0, [], 0, 2, none, true, none, 0⟩) ∧
    (let s := withOrder [] (fun s => { s with sys := { s.sys with wmark := 1 } })
     s.safe.on = false ∧ s.sys.wmark ≠ 0xFFFFFFFF ∧ s.sys.wmark.toNat ≤ s.frm + 1 ∧ 4800 ≤ s.seq.tick) ∧
    up.sys.wmark = 0xFFFFFFFF := by
  refine ⟨?_, ?_, ?_, ?_, ?_, ?_, ?_, ⟨?_, ?_⟩, ⟨?_, ?_, ?_, ?_⟩, ?_⟩ <;> decide +kernel

/-- Reports and RelayTraffic: a coordinator that knows outlet 5, with its key, and its report of 17 bytes in buffer 2. -/
def key5 : List Byte := List.replicate 15 0 ++ [1]
def knows5 : State :=
  up (fun s => { s with sram := { cells := [(nodeAddr 5, 0x8000), (ledAddr 5 + 1, 0x0800), (keyAddr 5 + 7, 1)] } })
def report5 : List Byte := 0x00 :: 9 :: List.replicate 15 0

theorem knows5_memOk : knows5.memOk := ⟨rfl, fun d => by cases d <;> rfl⟩

def reported : State := knows5.store 256 key5 (nonceBytes 3 0 5 0 0 2 0 0 0) hdr5 [0, 0] report5

theorem witness_reports : reported.openUnit (knows5.desc desc2) 3 false = some ⟨5, report5⟩ ∧ reported.memOk ∧
    17 ≤ report5.length ∧ reported.afw.ready = true ∧ reported.safe.on = false ∧ reported.afw.built = [] ∧
    reported.nodeValid 5 = true ∧ reported.isRepeat 5 9 0 = false ∧ reported.ledFlag 5 11 = true := by
  have hst := State.store_onlySram (s := knows5) (a := 256) (key := key5) (nonce := nonceBytes 3 0 5 0 0 2 0 0 0)
    (hdr := hdr5) (crc := [0, 0]) (p := report5) knows5_memOk rfl rfl (by decide) (by decide)
  obtain ⟨he, hrd⟩ := hst
  have hseen : reported.afw = knows5.afw := by rw [reported, he]
  refine ⟨?_, State.store_memOk _ _ _ _ _ _ knows5_memOk, by decide, ?_, ?_, ?_, ?_, ?_, ?_⟩
  · exact State.openUnit_store (s := knows5) (d := knows5.desc desc2) (type := 3) (own := false) (key := key5) (hdr := hdr5)
      (crc := [0, 0]) (p := report5) knows5_memOk rfl rfl (by decide) (by decide) (by decide) (by decide) (by decide) (by decide)
      (by decide) (by decide +kernel) (by decide) (.inl (by decide)) (by decide) (by decide +kernel) (by decide)
      (by decide +kernel) (by decide +kernel)
  · rw [hseen]; rfl
  · rw [reported, he]; rfl
  · rw [hseen]; rfl
  · rw [State.nodeValid, State.nodeW, reported, hrd _ (by decide)]; decide +kernel
  · rw [State.isRepeat, hseen]; rfl
  · rw [State.ledFlag, State.ledW, reported, hrd _ (by decide)]; decide +kernel

/-! ### Relays, building, power, calibration, start-up, safe-hold -/

/-- RelayTraffic: a depth-1 relay in sync, with a D slot, that knows unit 5 and hears a bundle of the coordinator. -/
def key10 : List Byte := List.replicate 15 0 ++ [1]
def relay10 : State :=
  relayUp (fun s => { s with seq := { s.seq with rstate := 2, cur := some [(3, 0x4000)] },
                             sram := { cells := [(nodeAddr 5, 0x8000), (keyAddr 5 + 7, 1), (keyAddr 0x10 + 7, 1)] } })
def hdr6 : List Byte := [0x64, 8, 0, 0x10, 0, 0, 0, 0]
def bundle (p : List Byte) : State := relay10.store 256 key10 (nonceBytes 6 0 0 0x10 0 2 0 0 0) hdr6 [0, 0] p
def wakeItem : List Byte := [0xFF, 0xFF, 0, 0, 0, 0, 1, 4]
def orderItem : List Byte := [0, 5, 0, 7, 0x60, 0, 1, 0]
def onwardItem : List Byte := [0, 5, 0, 7, 0x60, 0, 1, 1]

theorem relay10_memOk : relay10.memOk := ⟨rfl, fun d => by cases d <;> rfl⟩

theorem witness_bundle (p : List Byte) (hp : p ∈ [wakeItem, orderItem, onwardItem]) :
    (bundle p).openUnit (relay10.desc desc2) 6 true = some ⟨0, p⟩ ∧ (bundle p).nodeValid 5 = true ∧
      (bundle p).hasKey 5 = true ∧ (bundle p).afw = relay10.afw ∧ (bundle p).relay = relay10.relay ∧
      (bundle p).seq = relay10.seq := by
  have hl : p.length = 8 := by
    simp only [List.mem_cons, List.not_mem_nil, or_false] at hp
    rcases hp with rfl | rfl | rfl <;> rfl
  obtain ⟨he, hrd⟩ := State.store_onlySram (s := relay10) (a := 256) (key := key10) (nonce := nonceBytes 6 0 0 0x10 0 2 0 0 0)
    (hdr := hdr6) (crc := [0, 0]) (p := p) relay10_memOk rfl rfl (by omega) (by decide)
  have ha : (bundle p).afw = relay10.afw := by rw [bundle, he]
  have hr : (bundle p).relay = relay10.relay := by rw [bundle, he]; rfl
  have hq : (bundle p).seq = relay10.seq := by rw [bundle, he]
  refine ⟨?_, ?_, ?_, ha, hr, hq⟩
  · refine State.openUnit_store (s := relay10) (d := relay10.desc desc2) (type := 6) (own := true) (key := key10) (hdr := hdr6)
      (crc := [0, 0]) (p := p) relay10_memOk rfl rfl (by omega) (by decide) (by rw [hl]; decide) (by decide) (by decide)
      (by decide) (by decide +kernel) (by decide +kernel) (by decide) (.inr rfl) (by decide) (by decide +kernel) (by decide) ?_ ?_
    · rw [hl]; decide +kernel
    · simp only [List.mem_cons, List.not_mem_nil, or_false] at hp
      rcases hp with rfl | rfl | rfl <;> decide +kernel
  · rw [State.nodeValid, State.nodeW, bundle, hrd _ (by decide)]; decide +kernel
  · have : (bundle p).keyBytes 5 = relay10.keyBytes 5 := by
      exact OnlySram.keyBytes ⟨he, hrd⟩ 5 (fun i _ => by simp only [keyAddr, keyBase]; omega)
    rw [State.hasKey, this]; decide +kernel

theorem witness_bundle_items :
    downItems 64 (cut8 64 wakeItem) = [⟨wakeItem, []⟩] ∧ (⟨wakeItem, []⟩ : DownItem).noff = 0 ∧
    (⟨wakeItem, []⟩ : DownItem).isWake = true ∧ downItems 64 (cut8 64 orderItem) = [⟨orderItem, []⟩] ∧
    (⟨orderItem, []⟩ : DownItem).noff = 0 ∧ (⟨orderItem, []⟩ : DownItem).isWake = false ∧
    (⟨orderItem, []⟩ : DownItem).addr.toNat = 5 ∧ downItems 64 (cut8 64 onwardItem) = [⟨onwardItem, []⟩] ∧
    (⟨onwardItem, []⟩ : DownItem).noff ≠ 0 ∧ relay10.afw.ready = true ∧ relay10.safe.on = false ∧ relay10.ownSafe = false ∧
    2 ≤ relay10.seq.rstate.toNat ∧ (slotsOf relay10.plan roleD)[relay10.nodeD 5]? ≠ none ∧
    (∃ r, relay10.relay = some r ∧ (0 : Word) = r.upstream) := by
  refine ⟨?_, ?_, ?_, ?_, ?_, ?_, ?_, ?_, ?_, ?_, ?_, ?_, ?_, ?_, ⟨⟨0x10, 1, 0, 8650000, 8650000, 0, 1⟩, ?_, ?_⟩⟩ <;> decide +kernel

/-- RelayTraffic: an up bundle of unit 5 that opens, at a coordinator and at a relay, and a relay unheard for 16 windows. -/
def hdr7 : List Byte := [0x74, 1, 0, 0, 0, 5, 0, 0]
theorem witness_up_bundle : (knows5.store 256 key5 (nonceBytes 7 0 5 0 0 2 0 0 0) hdr7 [0, 0] [0]).openUnit (knows5.desc desc2) 7
    false = some ⟨5, [0]⟩ :=
  State.openUnit_store (s := knows5) (d := knows5.desc desc2) (type := 7) (own := false) (key := key5) (hdr := hdr7)
    (crc := [0, 0]) (p := [0]) knows5_memOk rfl rfl (by decide) (by decide) (by decide) (by decide) (by decide) (by decide)
    (by decide) (by decide +kernel) (by decide) (.inl (by decide)) (by decide) (by decide +kernel) (by decide)
    (by decide +kernel) (by decide +kernel)

theorem witness_lost_relay :
    (let s := up (fun s => { s with sram := { cells := [(nodeAddr 0x10, 0xC000)] },
                                    afw := { s.afw with upMiss := [⟨0x10, 16, []⟩] } })
     s.memOk ∧ s.isRelay = false ∧ s.nodeValid 0x10 = true ∧ s.nodeKind 0x10 = 4 ∧ s.nodeLost 0x10 = false ∧
       ∃ m, m ∈ s.afw.upMiss ∧ m.relay = 0x10 ∧ 16 ≤ m.count) ∧
    (∀ m : UpMiss, m ∈ [⟨0x10, 15, []⟩] → m.relay = 0x10 → m.count < 16) := by
  refine ⟨⟨⟨rfl, fun d => by cases d <;> rfl⟩, ?_, ?_, ?_, ?_, ?_⟩, ?_⟩ <;> decide +kernel

/-- DownlinkBuilding: a coordinator whose plan has a beacon, with the broadcast key; the packet of slot 0 has fewer than
256 bytes. -/
def beaconing : State :=
  up (fun s => { s with seq := { s.seq with cur := some [(1, 0x1400), (0x10, 0x8000), (0x11, 0x100)] },
                        sram := { cells := [(keyAddr 0 + 7, 1)] }, afw := { s.afw with firstBeacon := false } })

theorem witness_building : beaconing.afw.ready = true ∧ beaconing.safe.on = false ∧ beaconing.pwr.state = .run ∧
    beaconing.afw.wakes = [] ∧ beaconing.isRelay = false ∧ beaconing.seq.armBlock = false ∧
    (planSlot (beaconing.planFor (beaconing.nextFrame 0)) 0).role = roleB ∧
    (planEntry (beaconing.planFor (beaconing.nextFrame 0)) 0).en = true ∧ keyPresent beaconing.bkey = true ∧
    keyPresent up.bkey = false ∧ beaconing.memOk ∧ beaconing.afw.firstBeacon = false ∧
    (planEntry (beaconing.planFor (beaconing.nextFrame 0)) 0).buf + 129 ≤ sramEnd ∧
    (∃ k, beaconing.packetOf (beaconing.nextFrame 0) 0 = some k ∧ k.bytes.length < 256) := by
  have hk : ∀ o : Option Packet, (match o with | some k => decide (k.bytes.length < 256) | none => false) = true →
      ∃ k, o = some k ∧ k.bytes.length < 256 := by
    intro o h
    match o, h with
    | some k, h => exact ⟨k, rfl, by simpa using h⟩
  refine ⟨?_, ?_, ?_, ?_, ?_, ?_, ?_, ?_, ?_, ?_, ⟨rfl, fun d => by cases d <;> rfl⟩, ?_, ?_, hk _ ?_⟩ <;> decide +kernel

/-- EnginePasses: a pass due, an import that holds it up, and one order of a pass. -/
theorem witness_engine :
    (let s := up (fun s => { s with seq := { s.seq with fic := 1 }, afw := { s.afw with enable := true } })
     s.afw.ready = true ∧ s.afw.enable = true ∧ s.isRelay = false ∧ s.seq.fic.toNat = s.afw.startfic ∧
       s.afw.lastPass ≠ some s.seq.frame ∧ s.longKind ≠ some .ledgerImport) ∧
    (up (fun s => { s with interp := { s.interp with long := some ⟨.ledgerImport, ⟨.a, false, "", ""⟩, none, false⟩ } })).longKind =
      some .ledgerImport ∧
    up.afw.enable = false ∧ up.planWaits = false ∧
    (let s := up (fun s => { s with seq := { s.seq with cur := some [], pend := some ⟨[(3, 0x4000)], 0, none, false, false, none⟩ } })
     s.planWaits = true) ∧
    (∀ m : Member, m ∈ [⟨false, 5, 1, 2, 9, 0⟩] → m.lo ≤ m.hi ∧ m.e = 0) := by
  refine ⟨⟨?_, ?_, ?_, ?_, ?_, ?_⟩, ?_, ?_, ?_, ?_, ?_⟩ <;> decide +kernel

/-- A machine in a power state, with what else is given. -/
def powered (f : Pwr → Pwr) : State := up (fun s => { s with pwr := f s.pwr })

theorem powered_memOk (f : Pwr → Pwr) : (powered f).memOk := ⟨rfl, fun d => by cases d <;> rfl⟩

/-- A transfer of one word on Port M. -/
def transfer (len : BitVec 12) : MCmd :=
  { hold := false, sel := 1, len := len, cfg := 0, dly := 0, gap := 0, tx := 0x100, txOff := false, rx := 0x200, rxOff := false }

/-- PowerStates: each way into the clauses. -/
theorem witness_power : (powered (fun p => { p with entering := true })).pwr.entering = true ∧
    (powered (fun p => { p with state := .sleep })).pwr.state = .sleep ∧ up.pwr.entering = false ∧ up.pwr.state = .run ∧
    ((powered (fun p => { p with state := .doze })).pwr.state = .doze) ∧
    (powered (fun p => { p with entering := true })).pwr.past = false ∧ up.portm.run = none ∧
    ({ powered (fun p => { p with entering := true }) with portm := { up.portm with run := some (transfer 16) } } : State).portm.run ≠
      none ∧
    (let s := powered (fun p => { p with entering := true, toSleep := true, past := true, wakecfg := 0xE000 })
     s.pwr.past = true ∧ s.pwr.toSleep = true ∧ s.pwr.entering = true ∧ s.pwr.heldWake = none ∧
       true = bit s.pwr.wakecfg 13 ∧ false ≠ bit s.pwr.wakecfg 13 ∧ wakeEnabled s.pwr.wakecfg .wakeLevel = true) ∧
    (powered (fun p => { p with toSleep := false, bankcfg := 0x0F })).pwr.bankcfg.getLsbD 7 = false := by
  refine ⟨?_, ?_, ?_, ?_, ?_, ?_, ?_, ?_, ⟨?_, ?_, ?_, ?_, ?_, ?_, ?_⟩, ?_⟩ <;> decide +kernel

/-- WakesAndBanks: a drain in progress, wakes from STANDBY with and without bank 3 and from SLEEP, and resumed service. -/
theorem witness_wakes :
    Domain.ledger 7 ∈ (powered (fun p => { p with draining := [.ledger 7] })).pwr.draining ∧ Domain.txs ∉ up.pwr.draining ∧
    wakeEnabled (0x1000 : Word) .uaRxd = true ∧ wakeEnabled (0 : Word) .uaRxd = false ∧
    (powered (fun p => { p with state := .standby, wakecfg := 0x1000 })).pwr.bankcfg.getLsbD 3 = true ∧
    (powered (fun p => { p with state := .standby, wakecfg := 0x1000, bankcfg := 0 })).pwr.bankcfg.getLsbD 3 = false ∧
    (let s := { powered (fun p => { p with resuming := true }) with seq := { up.seq with cur := some [] } }
     s.pwr.resuming = true ∧ s.seq.cur ≠ none ∧ s.safe.on = false) ∧ up.pwr.resuming = false := by
  refine ⟨?_, ?_, ?_, ?_, ?_, ?_, ⟨?_, ?_, ?_⟩, ?_⟩ <;> decide +kernel

/-- CalibrationRules: a run at each kind of part, and a C slot. -/
def calibrating (p : CalPart) (b : Bool := false) : State :=
  up (fun s => { s with cal := { s.cal with run := some ⟨.requested, [(p, b)], [], [], []⟩ } })
def measured (clip : Bool) (e : Nat) : CalMeas := { targets := [(e, 3)], clips := if clip then [(.adc, false)] else [] }

theorem witness_calibration : (calibrating .adc).cal.redo = [] ∧
    (calibrating .adc).cal.run = some ⟨.requested, [(.adc, false)], [], [], []⟩ ∧
    (⟨.requested, [(.adc, false)], [], [], []⟩ : CalRun).next? = some (.adc, false) ∧
    (CalPart.adc, false) ∈ (measured true 0).clips ∧ (CalPart.adc, true) ∉ (measured true 0).clips ∧
    (calibrating .adc).stepMayRun .adc = true ∧
    ({ calibrating .adc with seq := { up.seq with stopped := true } } : State).stepMayRun .adc = false ∧
    up.tablesOk ∧
    (measured false 23).targets = [(23, 3)] ∧ 23 ∈ partElems .adc false ∧ 24 ∉ partElems .adc false ∧ 79 ∈ partElems .lna true ∧
    (⟨.requested, [(.syn, false)], [], [], []⟩ : CalRun).next? = some (.syn, false) ∧ up.syn.on = true ∧ up.safe.on = false ∧
    field (0xA000 : Word) 15 11 = 20 ∧ 20 < field (0xA800 : Word) 15 11 ∧
    (let s := up (fun s => { s with seq := { s.seq with slot := 7 } })
     s.seq.stopped = false ∧ s.curRole = roleC ∧ s.slotWorked = false) ∧ up.curRole ≠ roleC ∧ up.beaconTune = none ∧
    (up (fun s => { s with cal := { s.cal with redo := [(.lna, true)] } })).stepMayRun .lna = true ∧
    up.recovering = false ∧
    (up (fun s => { s with cal := { s.cal with run := some ⟨.recovery, [(.adc, false), (.adc, true)], [], [], []⟩ } })).recovering =
      true := by
  refine ⟨?_, ?_, ?_, ?_, ?_, ?_, ?_, ⟨?_, ?_, ?_⟩, ?_, ?_, ?_, ?_, ?_, ?_, ?_, ?_, ?_, ⟨?_, ?_, ?_⟩, ?_, ?_, ?_, ?_, ?_⟩ <;>
    decide +kernel

/-- A machine at a stage of its start. -/
def booting (st : BootStage) (buf : List Byte := []) : State :=
  { State.reset with boot := { State.reset.boot with stage := st, buf := buf } }

/-- The header of an image for the coordinator: one segment, core A0 released, SVN 0. -/
def header0 : List Word :=
  [0xB311, 0x1000, 200, 0, 0, 5, 0, 0, 1, 96] ++ List.replicate 54 0

/-- BootSequence: a slot with a valid header and none, each stage, load frames in and out of order, and a go frame. -/
theorem witness_boot : (booting .image).boot.stage = .image ∧ (booting .image).safe.on = false ∧
    (booting .image).boot.noLoad = false ∧ (booting .image).bootSlot [] [] = none ∧
    (booting .image).bootSlot header0 [] = some false ∧ (booting .image).bootSlot [] header0 = some true ∧
    (booting .hostLoad [1, 2]).boot.rej = false ∧
    (let b : List Byte := [0x4C, 0, 0, 2, 9, 9]
     b.getD 0 0 = 0x4C ∧ 6 ≤ b.length ∧ b.length ≤ 4096 ∧ (b.drop 4).length % 2 = 0 ∧
       beNat ((b.drop 1).take 3) = (booting .hostLoad [1, 2]).boot.buf.length ∧ beNat ((b.drop 1).take 3) % 2 = 0 ∧
       beNat ((b.drop 1).take 3) ≠ (booting .hostLoad [1, 2, 3, 4]).boot.buf.length) ∧
    ([0x47, 0, 0, 2] : List Byte).length = 4 ∧ (booting .hostLoad).boot.stage ≠ .calibrated ∧ 10000 ≤ 10000 ∧ 1999 < 2000 := by
  refine ⟨?_, ?_, ?_, ?_, ?_, ?_, ?_, ⟨?_, ?_, ?_, ?_, ?_, ?_, ?_⟩, ?_, ?_, ?_, ?_⟩ <;> decide +kernel

/-- SafeHold: the state of safe-hold before and after its report, and an alarm report as it comes in slot 1. -/
def held (f : State → State := id) : State :=
  up (fun s => f { s with safe := { s.safe with on := true, cause := 5 }, seq := { s.seq with slot := 1 },
                          sram := { cells := [(keyAddr 5 + 7, 1)] } })
def alarm5 : List Byte := hdr5 ++ [28, 101] ++ List.replicate 21 0 ++ [115, 22]

theorem witness_safe_hold : held.safe.on = true ∧ held.safe.reported = false ∧ up.safe.on = false ∧ held.seq.slot = 1 ∧
    headerOk 2 alarm5 = true ∧ fcrcOk alarm5 = true ∧ (Header.ofBytes alarm5).type = 3 ∧ (Header.ofBytes alarm5).key = false ∧
    (Header.ofBytes alarm5).frm = lo16 held.frm ∧ (Header.ofBytes alarm5).src.toNat = 5 ∧
    alarm5.length = (Header.ofBytes alarm5).len + 16 ∧ 17 ≤ (Header.ofBytes alarm5).len ∧ keyPresent (held.keyBytes 5) = true := by
  refine ⟨?_, ?_, ?_, ?_, ?_, ?_, ?_, ?_, ?_, ?_, ?_, ?_, ?_⟩ <;> decide +kernel

/-! ### Mustix commands, ports and lines -/

theorem witness_idle : up.idleMx ∧ up.coordMx ∧ relayUp.idleMx ∧ relayUp.isRelay = true := by
  refine ⟨⟨?_, ?_, ?_, ?_⟩, ⟨⟨?_, ?_, ?_, ?_⟩, ?_, ?_⟩, ⟨?_, ?_, ?_, ?_⟩, ?_⟩ <;> decide +kernel

/-- UnitCommands: a record that may change and one that an order holds, valid and invalid units, and import blocks. -/
def block1 (words : Memory) : State := up (fun s => { s with sram := { cells := words } })

theorem witness_units : knows5.idleMx ∧ unitOk 1 = true ∧ unitOk 0xFFFE = true ∧ nodeArgsOk {} (knows5.nodeBase 5) 900 = true ∧
    descOk { kind := some .relay, desc := some ⟨8650000, [], 0⟩ } (nodeApply { kind := some .relay } (knows5.nodeBase 5)) = true ∧
    knows5.recordHeld 5 (knows5.nodeWords 5) (nodeApply { p := some 2 } (knows5.nodeBase 5)) = false ∧
    (withOrder [try0 9600]).recordHeld 5 ((withOrder []).nodeWords 5) (nodeApply { p := some 2 } ((withOrder []).nodeBase 5)) = true ∧
    knows5.nodeValid 5 = true ∧ knows5.nodeValid 6 = false ∧ knows5.nodesFull 1 = false ∧
    (withOrder [try0 9600]).unitBusy 5 = true ∧ knows5.afw.orders = [] ∧ srcOk (.sram 0x580000) = true := by
  refine ⟨⟨?_, ?_, ?_, ?_⟩, ?_, ?_, ?_, ?_, ?_, ?_, ?_, ?_, ?_, ?_, ?_, ?_⟩ <;> decide +kernel

theorem witness_node_import :
    (let s := block1 [(0x580000, 0x1D01), (0x580001, 1), (0x580002, 5), (0x580003, 0x8000), (0x58000F, 23089)]
     (match s.blockEntries false 0x580000 [0x1D01] with
       | .ok (_, es) => decide (es = [5 :: 0x8000 :: List.replicate 11 0]) && (firstFault (s.nodeBlockFault es) es).isNone
       | .error _ => false) = true) ∧
    (match up.blockEntries false 0x580000 [0x1D01] with | .ok _ => false | .error _ => true) = true ∧
    (let es : List (List Word) := [5 :: 0x8000 :: List.replicate 11 0, 0xFFFF :: List.replicate 12 0]
     firstFault (up.nodeBlockFault es) es = some (1, "BAD_ARG")) ∧
    (up.importBlock (.flash 0 0 [0x1D01, 1])).1 = 0x580000 ∧
    (match (up.importBlock (.flash 0 0 [])).2.blockEntries true 0x580000 [0x1D01] with | .ok _ => "" | .error c => c) = "FLASH" := by
  refine ⟨?_, ?_, ?_, ?_, ?_⟩ <;> decide +kernel

theorem witness_ledger_import :
    (let s := block1 [(0x580000, 0x1D02), (0x580001, 1), (0x580002, 5), (0x580012, 13938)]
     (match s.blockEntries false 0x580000 [0x1D02, 0x1D03] with
       | .ok (m, es) => m == 0x1D02 && (firstFault (fun _ e => ledgerEntryFault e) es).isNone
       | .error _ => false) = true) ∧
    (let s := block1 [(0x580000, 0x1D03), (0x580001, 1), (0x580002, 5), (0x580003, 0x8000), (0x580006, 1), (0x580010, 5482)]
     (match s.blockEntries false 0x580000 [0x1D02, 0x1D03] with
       | .ok (m, es) => m == 0x1D03 && (firstFault (fun _ e => s.segEntryFault es e) es).isNone
       | .error _ => false) = true) ∧
    firstFault (fun _ e => ledgerEntryFault e) [[0xFFFF]] = some (0, "BAD_ARG") := by
  refine ⟨?_, ?_, ?_⟩ <;> decide +kernel

/-- LedgerCommands: a head, a segment under it, a segment that would be its own parent, an outlet, and shares. -/
theorem witness_segments :
    (let s := block1 [(nodeAddr 5, 0x8000), (segAddr 1, 0xC000), (segAddr 2, 0x8001)]
     s.idleMx ∧ s.isRelay = false ∧ s.segValid 1 = true ∧ s.leadsTo 2 4096 1 = false ∧ s.leadsTo 1 4096 2 = true ∧
       s.childrenOf 2 = [] ∧ s.outletsOf 2 = [] ∧ s.listOk 2 = true ∧ s.nodeValid 5 = true ∧ s.nodeKind 5 = 0) ∧
    segArgsOk { share := some 0xFFFF, parent := some 4095 } = true ∧ ledgerArgsOk { deliv := some 0xFFFFFFFF } = true ∧
    optOk (some 59) (fun v => decide (1 ≤ v ∧ v ≤ 59)) = true ∧ optOk (some 3600) (fun v => decide (60 ≤ v ∧ v ≤ 3600)) = true := by
  refine ⟨⟨⟨?_, ?_, ?_, ?_⟩, ?_, ?_, ?_, ?_, ?_, ?_, ?_, ?_, ?_⟩, ?_, ?_, ?_, ?_⟩ <;> decide +kernel

/-- AdmissionHolds and OrderCommands: outlet 5 listens in every frame of a plan with one D slot; the range has no duty
limit. -/
def roomy : State :=
  up (fun s => { s with otp := { s.otp with region := some (region1.set 7 1000) },
                        rxw := { s.rxw with cen0 := 8650000, cenAct0 := 8650000 },
                        seq := { s.seq with cycLen := 60, cur := some [(1, 0x1400), (3, 0x4400), (0x10, 0x8080), (0x20, 0x8080)] },
                        sram := { cells := [(nodeAddr 5, 0x8800), (keyAddr 5 + 7, 1), (keyAddr 0xFFFF + 7, 1)] } })
def flow5 : OrderReq := roomy.orderReq (.unit 5) .hold 40 1

theorem witness_admission : roomy.memOk ∧
    (match roomy.admission flow5 with | .ok (a, _) => decide (a.ticket = 1 ∧ a.tries.map (·.length) = [2]) | .error _ => false) =
      true ∧
    (match roomy.admission { flow5 with members := [6] } with | .ok _ => false | .error _ => true) = true := by
  refine ⟨⟨rfl, fun d => by cases d <;> rfl⟩, ?_, ?_⟩ <;> decide +kernel

theorem witness_orders : roomy.coordMx ∧ roomy.tx.regLock = true ∧ roomy.deadlineFrame (.frame 40) = some 40 ∧ roomy.frm < 40 ∧
    targetOk (.unit 5) = true ∧ actionOk .hold = true ∧ roomy.hasKey (bslotEntry (!roomy.aon.bslot)) = true ∧
    nodeArgsOk { p := some 1, ph := some 0, d := some 0 } (roomy.nodeBase 5) roomy.cycleLen = true ∧
    roomy.unitBusy 5 = false ∧ roomy.afw.orders = [] ∧ roomy.afw.utc = none := by
  refine ⟨⟨⟨?_, ?_, ?_, ?_⟩, ?_, ?_⟩, ?_, ?_, ?_, ?_, ?_, ?_, ?_, ?_, ?_, ?_⟩ <;> decide +kernel

/-- CANCEL: no such ticket, a try whose commit point has passed, and one still to come. -/
theorem witness_cancel :
    up.orderOf 7 = none ∧ up.history 7 = none ∧ (withOrder [try0 9600]).orderOf 7 = some (order0 [try0 9600]) ∧
    (let t := (withOrder [try0 9600]).passOutcomes (order0 [try0 9600])
     (t.nextTry (order0 [try0 9600])).map (fun x => decide (x.1.commit ≤ t.now)) = some true) ∧
    (let o := order0 [{ try0 19200 with frame := 1, commit := 11981, sent := false }]
     let t := (withOrder []).passOutcomes o
     (t.nextTry o).map (fun x => decide (t.now < x.1.commit)) = some true) := by
  refine ⟨?_, ?_, ?_, ?_, ?_⟩ <;> decide +kernel

/-- WAKE: the coordinator's own burst of the least number of slots, one that fits nowhere, and no wake channel. -/
def waking (n : Nat) : State :=
  up (fun s => { s with otp := { s.otp with region := some (region1.set 7 1000) },
                        rxw := { s.rxw with cen0 := 8650000, cenAct0 := 8650000 },
                        seq := { s.seq with cycLen := BitVec.ofNat 12 n, cur := some [(1, 0x1400)] },
                        afw := { s.afw with current := { s.afw.current with wch := some ⟨false, 128⟩ } } })

theorem witness_wake : (match (waking 60).wakeTarget { wcode := some 9, slots := some 2 } with
      | .ok (via, w) => via == 0 && w == 9 | .error _ => false) = true ∧
    ((waking 60).ownBurst 9 2 2).isSome = true ∧ ((waking 2).ownBurst 9 2 2).isSome = false ∧
    up.afw.current.wch = none := by
  refine ⟨?_, ?_, ?_, ?_⟩ <;> decide +kernel

/-- WAKE through a relay: a P slot serves relay 0x10, whose descriptor names a wake channel. -/
def waking10 : State :=
  up (fun s => { s with otp := { s.otp with region := some (region1.set 7 1000) },
                        rxw := { s.rxw with cen0 := 8650000, cenAct0 := 8650000 },
                        seq := { s.seq with cycLen := 60, cur := some [(1, 0x1400), (2, 0x5490), (0x18, 0x8080)] },
                        sram := { cells := [(nodeAddr 0x10, 0xC000)] },
                        afw := { s.afw with relayDesc := [⟨0x10, 8650000, [], 8650000⟩] } })

theorem witness_relayed_wake : waking10.coordMx ∧ waking10.relayReached 0x10 = true ∧
    (∃ d, waking10.descOf 0x10 = some d ∧ d.wake ≠ 0) ∧
    (match waking10.wakeTarget { wcode := some 9, via := some 0x10, slots := some 5 } with
      | .ok (via, w) => via == 0x10 && w == 9 | .error _ => false) = true ∧
    (waking10.relayBurst 0x10 9 5 2).isSome = true := by
  refine ⟨⟨⟨?_, ?_, ?_, ?_⟩, ?_, ?_⟩, ?_, ⟨⟨0x10, 8650000, [], 8650000⟩, ?_, ?_⟩, ?_, ?_⟩ <;> decide +kernel

/-- PlanAndRadioCommands: a staged plan that fits its slots and one that does not, a commit that moves D and P slots while
an order stands, the test state, channels in and out of a range, windows, and the region. -/
theorem witness_plan_commands : planArgsOk { pwr := some 160 } = true ∧ (planWith {} up.afw.staged).aligned = true ∧
    (∀ n, n < 8 → (planWith {} up.afw.staged).role n = roleP → (planWith {} up.afw.staged).cls n ≠ 0) ∧
    (planWith { bch := some ⟨false, 1⟩ } up.afw.staged).aligned = false ∧
    ({ up.afw.staged with uct := putUct up.afw.staged.uct 5 [⟨false, 2⟩], n := 128 } : BasePlan).aligned = true ∧
    (let s := up (fun s => { s with afw := { s.afw with orders := [order0 []],
                                                        staged := { s.afw.staged with roles := [1, 2, 4, 0, 0, 0, 0, 0],
                                                                                      dch := [⟨false, 2⟩] } } })
     s.afw.orders ≠ [] ∧ plansDiffer (s.framePlan s.afw.current 1) (s.framePlan (s.effectivePlan s.afw.staged) 1) = true) ∧
    up.seq.testState = false ∧ up.pagesDiffer up.afw.current (up.effectivePlan up.afw.staged) = false ∧
    up.tx.regLock = true ∧ (powered id).afw.orders = [] ∧ up.cfgvBar 1 = none ∧ up.afw.staged.usesW1 = false ∧
    (planWith { dch := some [⟨true, 2⟩] } up.afw.staged).usesW1 = true := by
  refine ⟨?_, ?_, ?_, ?_, ?_, ⟨?_, ?_⟩, ?_, ?_, ?_, ?_, ?_, ?_, ?_⟩ <;> decide +kernel

def testing : State := up (fun s => { s with seq := { s.seq with testState := true },
                                             rxw := { s.rxw with cen0 := 8650000, cenAct0 := 8650000 } })

theorem witness_radio_tx : testing.idleMx ∧ testing.seq.testState = true ∧ testOk (.pkt 24) 0 = true ∧
    alignedFor ⟨false, 128⟩ 2 = true ∧ testing.testRange ⟨false, 128⟩ 0 80 (testTicks (.pkt 24) 0 16) = some 0 ∧
    testing.testRange ⟨false, 128⟩ 0 81 (testTicks (.pkt 24) 0 16) = none ∧
    (let r := regionRange (testing.region.getD []) 0
     16 + testTicks (.pkt 24) 0 16 ≤ 1128 ∧ testTicks (.pkt 24) 0 16 ≠ 0 ∧
       testing.gate.passes r 0 testing.frm (testTicks (.pkt 24) 0 16) = true ∧ lbtClear r ⟨[-480], [-480], false, false⟩ = true) ∧
    testing.clk.lock = true := by
  refine ⟨⟨?_, ?_, ?_, ?_⟩, ?_, ?_, ?_, ?_, ?_, ⟨?_, ?_, ?_, ?_⟩, ?_⟩ <;> decide +kernel

theorem witness_radio_settings : centreOk (865000000 / 100) = true ∧ 865000000 % 100 = 0 ∧ up.cfgvBar up.nextBeacon = none ∧
    up.windowFault false 8650000 = none ∧ (up (fun s => { s with seq := { s.seq with cur := some [(16, 0x8000)] } })).windowFault false 0 ≠
      none ∧
    agcMode up.rxw.agcA ≤ 2 ∧ alignedFor ⟨false, 2⟩ up.slotClass = true ∧ alignedFor ⟨false, 1⟩ up.slotClass = false ∧
    bufOk 0x580000 83 = true ∧ up.otp.region.isSome = true ∧ State.reset.otp.region = none ∧
    up.region = some region1 ∧ State.reset.region = none := by
  refine ⟨?_, ?_, ?_, ?_, ?_, ?_, ?_, ?_, ?_, ?_, ?_, ?_, ?_⟩ <;> decide +kernel

/-- RunCommands: each power state, the mode, the lengths of a Cycle, and a ZDA sentence. -/
def zda : List Byte := strBytes "$GPZDA,120000,01,01,2024,00,00*4F\r\n"
def zdaLine : List Char := (zda.map (fun b => Char.ofNat b.toNat)).filter (fun c => c != '\r' && c != '\n')

theorem witness_run_commands : up.seq.testState = false ∧ up.pwr.state ≠ .standby ∧ up.curLine.port ≠ .s ∧
    (up (fun s => { s with interp := { s.interp with cur := some ⟨.s, true, "1", ""⟩ } })).curLine.port = .s ∧
    up.modeBlock false {} = some coordBlock ∧ up.modeBlock true {} = none ∧ up.relay = none ∧ relayUp.relay ≠ none ∧
    up.afw.nmeaOn = false ∧ up.cycleHeld 60 672 0 = false ∧ optOk (some 3600) (fun v => decide (60 ≤ v ∧ v ≤ 3600)) = true ∧
    EvClass.ready ∉ [EvClass.disp] ∧ gnssByteOk 0x7E = true := by
  refine ⟨?_, ?_, ?_, ?_, ?_, ?_, ?_, ?_, ?_, ?_, ?_, ?_, ?_⟩ <;> decide +kernel

theorem witness_nmea : nmeaType zdaLine = some false ∧ (nmeaBody zdaLine).isSome = true ∧ zda.length ≤ 82 ∧
    (nmeaUtc false (splitChars ',' ((nmeaBody zdaLine).getD []))).isSome = true ∧ nmeaType [] = none ∧
    nmeaType (zdaLine.take 9) = some false ∧ nmeaBody (zdaLine.take 9) = none := by
  refine ⟨?_, ?_, ?_, ?_, ?_, ?_, ?_⟩ <;> decide +kernel

/-- SystemCommands: a secret that is set, staged words, an image that may be committed, a PEEK in reach, and a command of
each refused kind. -/
theorem witness_system : (5 : Nat) ≠ bslotEntry up.aon.bslot ∧ up.afw.orders.any (·.keySend) = false ∧
    ((withOrder []).afw.orders ++ [{ order0 [] with keySend := true }]).any (·.keySend) = true ∧
    up.headerValid up.stagedHeader = false ∧
    (let s := block1 (header0.zipIdx.filterMap (fun x => if x.1 = 0 then none else some (0x650000 + x.2, x.1)))
     s.stagedHeader = header0 ∧ s.headerValid header0 = true) ∧
    optOk (some 32) (fun n => decide (1 ≤ n ∧ n ≤ 32)) = true ∧ (0x77FFC4 : Nat) + 60 ≤ keyBase ∧
    (∀ i, i < 60 → up.pwr.bankOn.getLsbD (bankOf (0x77FFC4 + i)) = true ∧ eccWord (0x77FFC4 + i) ∉ up.sram.bad) ∧
    "SAFE" ∈ verbs ∧ "NOSUCH" ∉ verbs ∧ coordOnly .keySwitch = true ∧ testBarred .radioTest = true ∧ held.served = true ∧
    relayUp.isRelay = true ∧ testing.seq.testState = true := by
  refine ⟨?_, ?_, ?_, ?_, ⟨?_, ?_⟩, ?_, ?_, ?_, ?_, ?_, ?_, ?_, ?_, ?_, ?_⟩ <;> decide +kernel

/-- PortTraffic: the ports as the shipped firmware sets them, with text in Port A's line, or with Port A's characters
going to queue 5; a full frame of Port S; and Port M commands of each kind. -/
def typing (p : List Char) : State :=
  let t := up.portDefaults
  { t with porta := { t.porta with l := { t.porta.l with partialRev := p, midLine := false } } }
def elsewhere (q : Queue) : State :=
  let t := (typing []).setQueue 5 q
  { t with porta := { t.porta with cfg := 0x80A5 } }

theorem witness_ports : (typing ['A']).served = true ∧ bit (typing []).porta.cfg 15 = true ∧
    rxq (typing []).porta.cfg = afwRxq .a ∧ txq (typing []).porta.cfg = afwTxq .a ∧ rxq (typing []).ports.cfg = afwRxq .s ∧
    ((typing []).queue (afwRxq .a)).en = true ∧ ((typing []).queue (afwRxq .a)).words = [] ∧
    ((typing []).lines .a).midLine = false ∧
    ((typing ['A']).lines .a).partialRev.any (· != ' ') = true ∧ ((typing ['A']).lines .a).gen = false ∧
    bit up.porta.cfg 15 = false ∧ (up.lines .a).out.any (·.cls.isSome) = false ∧ (typing []).interp.wait = none ∧
    (let cs := strBytes "SAFE"
     (∀ b ∈ cs, 32 ≤ b.toNat ∧ b.toNat ≤ 126) ∧ cs.length ≤ 255 ∧ ∃ b ∈ cs, b ≠ 32) ∧
    (25 : Word).toNat = 25 ∧ (64000 : Word).toNat = 64000 := by
  refine ⟨?_, ?_, ?_, ?_, ?_, ?_, ?_, ?_, ?_, ?_, ?_, ?_, ?_, ⟨?_, ?_, ?_⟩, ?_, ?_⟩ <;> decide +kernel

theorem witness_port_queues : rxq (elsewhere (fifo [])).porta.cfg = 5 ∧ (5 : BitVec 5) ≠ afwRxq .a ∧
    ((elsewhere (fifo [])).queue 5).full = false ∧ (State.reset.queue 5).full = true ∧
    txq (elsewhere (fifo [7])).porta.cfg = 5 ∧ ((elsewhere (fifo [7])).queue 5).words = [⟨7, false, false⟩] ∧
    bit (typing []).timep.cfg 15 = true ∧ rxq (typing []).timep.cfg = 26 ∧ State.reset.served = false ∧
    State.reset.boot.stage ≠ .hostLoad ∧ State.reset.pwr.state = .run := by
  refine ⟨?_, ?_, ?_, ?_, ?_, ?_, ?_, ?_, ?_, ?_, ?_⟩ <;> decide +kernel

theorem witness_port_m :
    (let m := up.portm.latch 0x1010
     ¬ (m.len = 0 ∨ up.portm.pend ≠ none)) ∧ (up.portm.latch 0x1000).len = 0 ∧ up.portm.run = none ∧
    (let s : State := { up with portm := { up.portm with run := some (transfer 16) } }
     s.portm.run = some (transfer 16) ∧ (transfer 16).rx.toNat + ((transfer 16).len.toNat + 15) / 16 ≤ 0x800000 ∧
       (transfer 16).rxOff = false ∧ s.portm.pend = none) := by
  refine ⟨?_, ?_, ?_, ⟨?_, ?_, ?_, ?_⟩⟩ <;> decide +kernel

/-- LinesAndEvents: lines that wait in each mode, room and no room, a long operation with and without its line. -/
def lined (gen : Bool) (line : String) : State :=
  up (fun s => { s with porta := { s.porta with l := { s.porta.l with gen := gen, waiting := [(line, false)] } } })

theorem witness_lines : (lined false "SAFE").mayTake = true ∧
    (portsAfter (lined false "SAFE").interp.lastPort).find? (fun q => !((lined false "SAFE").lines q).waiting.isEmpty) = some .a ∧
    tagOf "SAFE" = none ∧ tagOf "#1 SAFE*17F9" = some "1" ∧
    (match genParts "1" "#1 SAFE*17F9" with
      | some (text, crc) => crc == (crc16 0xFFFF (strBytes (String.ofList text))).toNat | none => false) = true ∧
    (match parseLine true allForms "SAFE".toList with
      | .ok (f, a) => (match f.job a with | some (.run _) => true | _ => false) | .error _ => false) = true ∧
    (match parseLine true allForms "NOSUCH".toList with | .ok _ => false | .error _ => true) = true := by
  refine ⟨?_, ?_, ?_, ?_, ?_, ?_, ?_⟩ <;> decide +kernel

theorem witness_events : EvClass.disp ∈ (up.lines .a).subs ∧ up.interp.lines = [] ∧ up.interp.long = none ∧
    (up.lines .a).used + (lineText false "+OK").length ≤ 16224 ∧ up.afw.ready = true ∧ up.safe.on = false ∧
    State.reset.afw.ready = false := by
  refine ⟨?_, ?_, ?_, ?_, ?_, ?_, ?_⟩ <;> decide +kernel

/-! ### Further clauses -/

/-- OrderOutcomes: the ack of unit 5 for ticket 7 in buffer 2, while its try waits and after its disposition. -/
def ackTag : List Byte := ccmTag key5 (nonceBytes 0xA 0 5 0 0 2 0 0 7) [5, 27] []
def acking0 (f : Afw → Afw) : State :=
  up (fun s => { s with sram := { cells := [(keyAddr 5 + 7, 1)] }, afw := f s.afw })
def acking (f : Afw → Afw) : State := (acking0 f).wrN (256 + 1) (wordsOfBytes ([5, 27] ++ ackTag))

theorem witness_ack (f : Afw → Afw) : (acking f).ackValid ((acking0 f).desc desc2) 5 7 = true ∧ (acking f).afw = f up.afw := by
  have hm : (acking0 f).memOk := ⟨rfl, fun d => by cases d <;> rfl⟩
  have hl : ([5, 27] ++ ackTag).length = 6 := by decide +kernel
  have hw : (wordsOfBytes ([5, 27] ++ ackTag)).length = 3 := by rw [wordsOfBytes_length, hl]
  have hs := State.wrN_onlySram (s := acking0 f) (256 + 1) (wordsOfBytes ([5, 27] ++ ackTag)) hm (by rw [hw]; decide)
  have hb := State.packetBytes_wrN (s := acking0 f) 256 ([5, 27] ++ ackTag) hm (by rw [hl]) (by rw [hl]; decide)
  rw [hl] at hb
  have hk : (acking f).keyBytes 5 = key5 := by
    rw [acking, OnlySram.keyBytes hs 5 (fun i _ => by rw [hw]; simp only [keyAddr, keyBase]; omega)]
    show (acking0 id).keyBytes 5 = key5
    decide +kernel
  have hd : (acking f).district = 0 ∧ (acking f).afw = f up.afw ∧ (acking f).ownAddr = 0 := by
    rw [acking, hs.1]; exact ⟨rfl, rfl, rfl⟩
  refine ⟨?_, hd.2.1⟩
  have hp : ((acking f).packetBytes ((acking0 f).desc desc2).buf 6) = [5, 27] ++ ackTag := hb
  unfold State.ackValid
  rw [hp, show (5 : Word).toNat = 5 from rfl, hk, hd.1, hd.2.2]
  have hf : ((acking0 f).desc desc2).frame = 0 ∧ ((acking0 f).desc desc2).slot = 2 ∧ ((acking0 f).desc desc2).sub = 0 := by
    show ((acking0 id).desc desc2).frame = 0 ∧ ((acking0 id).desc desc2).slot = 2 ∧ ((acking0 id).desc desc2).sub = 0
    decide +kernel
  have ht : ccmTag key5 (nonceBytes 0xA 0 5 0 0 2 0 0 7) [5, 27] [] = ackTag := rfl
  simp only [hf.1, hf.2.1, hf.2.2, List.cons_append, List.nil_append, List.take_succ_cons, List.take_zero, List.drop_succ_cons,
    List.drop_zero, ht, beq_self_eq_true, Bool.and_true]
  decide +kernel

/-- OrderOutcomes: a watermark of the current frame and one of the next before Tick 4,800. -/
theorem witness_watermark : (0 : BitVec 32).toNat ≤ up.frm ∧ (1 : BitVec 32).toNat = up.frm + 1 ∧ up.seq.tick < 4800 ∧
    up.frm + 1 < (2 : BitVec 32).toNat := by decide +kernel

/-- CallProtocol: A0 and A1 have both rung a fast call, and A0 was served last. -/
def rung2 : State :=
  let t := ringing [0x0300] (fun s => { s with sys := { s.sys with lastServed := .a0 } })
  t.setCore .a1 { t.core .a1 with busy := true, mbox := Vector.ofFn (fun i => if i.val = 0 then 0x0300 else 0) }

theorem witness_rungs : rung2.rung .a1 = some 0x03 ∧ rung2.rung .a0 = some 0x03 ∧ (0x03 : Byte) ∉ slowCodes ∧
    rung2.sys.lastServed.num < CoreId.a1.num ∧ CoreId.a0.num ≤ rung2.sys.lastServed.num ∧ rung2.calling .a1 0x03 = true ∧
    rung2.calling .a0 0x03 = false := by
  refine ⟨?_, ?_, ?_, ?_, ?_, ?_, ?_⟩ <;> decide +kernel

/-- WakesAndBanks: an access of core T that was set aside for ledger bank 3. -/
theorem witness_set_aside :
    (powered id).sys.setAside.find? (fun e => e.dom == Domain.ledger 3) = none ∧
    (let s := { powered id with sys := { up.sys with setAside := [⟨.ledger 3, 5, 0, none, none⟩] } }
     s.sys.setAside.find? (fun e => e.dom == Domain.ledger 3) = some ⟨.ledger 3, 5, 0, none, none⟩) := by
  refine ⟨?_, ?_⟩ <;> decide +kernel

/-- PowerStates and WakesAndBanks: a wake in time and one too late for an entry past its last abort. -/
theorem witness_late_wake : let s := powered (fun p => { p with entering := true, toSleep := true, past := true, wakecfg := 0x1000 })
    wakeEnabled s.pwr.wakecfg .uaRxd = true ∧ s.pwr.past = true ∧ s.pwr.toSleep = true ∧ s.pwr.state = .run := by
  refine ⟨?_, ?_, ?_, ?_⟩ <;> decide +kernel

/-- SafeHold: a line that has partly left Port A when safe-hold begins. -/
theorem witness_safe_cut :
    let o : OutLine := { cls := none, text := "+OK\r\n", sent := 2 }
    let s := held (fun s => { s with porta := { s.porta with l := { s.porta.l with subs := [], out := [o] } } })
    s.safe.on = true ∧ s.safe.reported = false ∧ s.safe.beforeReady = false ∧ MPort.a ∈ [MPort.a] ∧
      (s.lines .a).out = [] ++ [o] ∧ (s.lines .a).subs = [] := by
  refine ⟨?_, ?_, ?_, ?_, ?_, ?_⟩ <;> decide +kernel

/-- RunCommands and SystemCommands: a command from Port S, whose output queue holds n characters. -/
def fromS (n : Nat) : State :=
  up (fun s => { s with interp := { s.interp with cur := some ⟨.s, false, "", ""⟩ },
                        ports := { s.ports with l := { s.ports.l with
                          out := [{ cls := none, text := String.ofList (List.replicate n 'x') }] } } })

theorem fromS_used (n : Nat) : ((fromS n).lines .s).used = n := by
  show 0 + ((String.ofList (List.replicate n 'x')).length - 0) = n
  rw [String.length_ofList, List.length_replicate, Nat.zero_add, Nat.sub_zero]

theorem fromS_chars (n : Nat) (p : MPort) (body : String) : (fromS n).lineChars p body = (fromS 0).lineChars p body := by
  cases p <;> rfl

theorem fromS_a (n : Nat) : (fromS n).lines .a = (fromS 0).lines .a := rfl

theorem witness_from_s : (fromS 0).idleMx ∧ (fromS 0).curLine.port = .s ∧ ((fromS 0).lines .s).waiting = [] ∧
    (fromS 0).interp.lines = [] ∧ (fromS 0).pwr.state ≠ .sleep ∧ (fromS 0).pwr.entering = false ∧
    ((fromS 0).lines .s).used + (fromS 0).lineChars .s "+OK state=SLEEP" ≤ 16224 ∧
    16224 < ((fromS 16224).lines .s).used + (fromS 16224).lineChars .s "+OK state=SLEEP" := by
  rw [fromS_used, fromS_used, fromS_chars 16224]
  refine ⟨⟨?_, ?_, ?_, ?_⟩, ?_, ?_, ?_, ?_, ?_, ?_, ?_⟩ <;> decide +kernel

/-- RunCommands: a sentence for which GT_TXD has room, and one that must wait. -/
theorem witness_gnss : ((typing []).queue 27).en = true ∧ (typing []).timep.tx.length + 86 ≤ 64 * (((typing []).queue 27).sizeM1.toNat + 1) ∧
    (State.reset.queue 27).en = false ∧ gnssByteOk 0x41 = true := by
  refine ⟨?_, ?_, ?_, ?_⟩ <;> decide +kernel

/-- LinesAndEvents: lines that wait for two ports, the first of which is full. -/
theorem fromS_pump (n : Nat) (hn : 16224 ≤ n) (o : OutLine) (ho : o = { cls := none, text := "+OK" }) :
    (fromS n).nextFit [] [(.s, o), (.a, o)] = some ((.a, o), [(.s, o)]) ∧ (fromS n).interp.wait = none := by
  have h0 : (fromS 0).lineChars .s "+OK" = 5 ∧ ((fromS 0).lines .a).used + (fromS 0).lineChars .a "+OK" ≤ 16224 := by
    constructor <;> decide +kernel
  have hs : ¬ (((fromS n).lines .s).used + (fromS n).lineChars .s o.text ≤ limitResponse) := by
    rw [fromS_used, fromS_chars, ho, h0.1, limitResponse]; omega
  have ha : ((fromS n).lines .a).used + (fromS n).lineChars .a o.text ≤ limitResponse := by
    rw [fromS_a, fromS_chars, ho]; exact h0.2
  refine ⟨?_, rfl⟩
  simp [State.nextFit, hs, ha]

theorem witness_pump : let o : OutLine := { cls := none, text := "+OK" }
    (fromS 16224).nextFit [] [(.s, o), (.a, o)] = some ((.a, o), [(.s, o)]) ∧ (fromS 16224).interp.wait = none :=
  fromS_pump 16224 (Nat.le_refl _) _ rfl

/-- LinesAndEvents: an uncorrectable error to report and none, and a class that safe-hold does not send. -/
theorem witness_events_more : ({ up with ecc := { up.ecc with ue := true } } : State).ecc.ue = true ∧ up.ecc.ue = false ∧
    safeSends .rpt "" = false := by
  refine ⟨?_, ?_, ?_⟩ <;> decide +kernel

/-- FacetRepeats: instructions that a repeat executes and that it cannot, a body that runs on, and a count of 0. -/
theorem witness_repeat_bodies :
    repeatBody (.fAdd .a0 1 (some 2) 3) = some (.a0, 2) ∧ (Instr.fAdd .a0 1 (some 2) 3).wf = true ∧
    unrepeatable (.fTrap .a0) = some (.a0, 1) ∧ unrepeatable (.fRett .t) = some (.t, 1) ∧
    readsRepcnt (.fAdd .a0 1 (some 2) 3) = false ∧ memOperand (.fAdd .a0 1 (some 2) 3) = none ∧
    (let s := live .a0 [] (fun k => { k with rpt := some ⟨2, false, false⟩ })
     let u := s.setCore .a0 { s.core .a0 with rpt := none }
     s.fetchOk .a0 2 ∧ ∃ t, exec (.fAdd .a0 1 (some 2) 3) u = .next t ∧ (t.core .a0).run = .running ∧
       bit (t.core .a0).cst 11 = bit (s.core .a0).cst 11 ∧ t.aon.boot = s.aon.boot) ∧
    (let s := live .a0 [] (fun k => { k with rpt := some ⟨0, true, false⟩ })
     (s.core .a0).rpt = some ⟨0, true, false⟩ ∧ s.fetchOk .a0 2) ∧
    (Instr.fMvcRead .a0 7 1).wf = true := by
  refine ⟨by decide, by decide, by decide, by decide, by decide, by decide,
    ⟨fun i _ => ⟨List.not_mem_nil, List.not_mem_nil⟩, _, rfl, by decide, by decide, by decide⟩,
    ⟨rfl, fun i _ => ⟨List.not_mem_nil, List.not_mem_nil⟩⟩, by decide⟩

/-- FastCalls: a RADIO_CHECK that fits the region as a packet of every class, and one that fits as none; the banks of a key
entry are on; the other broadcast slot has a key. -/
def checking : State :=
  ringing [0x4000, 0x8080, 0, 0, 10, 0, 0]
    (fun s => { s with tx := { s.tx with regLock := true }, otp := { s.otp with region := some region1 },
                       rxw := { s.rxw with cen0 := 8650000, cenAct0 := 8650000 },
                       sram := { cells := [(keyAddr (bslotEntry true) + 7, 1)] } })

theorem checking_fits (cls : Nat) (h : cls < 3) :
    FitsRegion checking (TxEntry.ofWords 0x8080 0 0 10 0 0) cls := by
  refine ⟨region1, 0, by decide +kernel, ?_⟩
  interval_cases cls <;> refine ⟨?_, ?_, ?_, ?_⟩ <;> decide +kernel

theorem witness_radio_check : checking.calling .a0 0x40 = true ∧ (∀ i, i < 6 → checking.arg .a0 (i + 1) =
      [0x8080, 0, 0, 10, 0, 0].getD i 0) ∧
    (∀ e cls, ¬ FitsRegion (ringing [0x4000]) e cls) ∧ (ringing [0x2100]).spanOn (keyAddr 5) 8 ∧
    keyPresent (checking.keyBytes (bslotEntry (!checking.aon.bslot))) = true ∧ (ringing [0x2100]).afw.built = [] := by
  refine ⟨by decide +kernel, ?_, ?_, ?_, by decide +kernel, rfl⟩
  · intro i h
    interval_cases i <;> decide +kernel
  · rintro e cls ⟨ws, j, h, -⟩
    cases h
  · unfold State.spanOn
    decide +kernel

/-- CallProtocol and KeyedCalls: a key entry in a bank that is off, and a call that waits for its bank. -/
theorem witness_bank_calls :
    (let s := ringing [0x2200, 5] (fun s => { s with pwr := { s.pwr with bankOn := 0x7F } })
     s.calling .a0 0x22 = true ∧ ¬ s.spanOn (keyAddr (s.arg .a0 1).toNat) 8) ∧
    (let s := ringing [0x2200, 5] (fun s => { s with sys := { s.sys with waiting := [(.a0, 7)] } })
     (CoreId.a0, 7) ∈ s.sys.waiting) ∧
    (keyed 0x11).spanOn ((keyed 0x11).bufArg .a0) (sealWords ((keyed 0x11).bufLen ((keyed 0x11).bufArg .a0))) ∧
    (keyed 0x14).spanOn (keyAddr (bslotEntry true)) 8 := by
  unfold State.spanOn
  refine ⟨⟨?_, ?_⟩, ?_, ?_, ?_⟩ <;> decide +kernel

/-- SequencerRegisters: a step due with an order outstanding, and at a relay in safe-hold. -/
theorem witness_steps :
    (let s := withOrder [try0 9600] (fun s => { s with seq := { s.seq with stepFrame := some 0 } })
     s.seq.stepFrame = some s.seq.frame ∧ s.isRelay = false ∧ s.afw.orders ≠ []) ∧
    (let s := relayUp (fun s => { s with seq := { s.seq with stepFrame := some 0 }, safe := { s.safe with on := true } })
     s.seq.stepFrame = some s.seq.frame ∧ s.isRelay = true ∧ s.safe.on = true) := by
  refine ⟨⟨?_, ?_, ?_⟩, ?_, ?_, ?_⟩ <;> decide +kernel

/-- ClockRules and TransmitCourse: a loss of lock while the Tick comes from the PLL, a CLKOUT setting from EN 0, a
transmission that reached its ramp-up and one that did not, and a cold synthesiser. -/
theorem witness_tick_source : radio.clk.ticksrc = false ∧ bit radio.clk.outAct 15 = false ∧ bit (0xC001 : Word) 15 = true ∧
    bit (0xC001 : Word) 14 = true ∧ ({ tx0 .rampDown with up := true } : Tx).up = true ∧ (tx0 .rampDown).up = false ∧
    State.reset.syn.on = false := by
  refine ⟨?_, ?_, ?_, ?_, ?_, ?_, ?_⟩ <;> decide +kernel

/-- Reports: a report of a rotation that has rolled over. -/
theorem witness_rolled : let s := up (fun s => { s with afw := { s.afw with rollFrame := 1, rolled := [⟨5, 0, 0⟩] } })
    (s.desc desc2).frame < s.afw.rollFrame ∧ s.afw.rolled.any (fun x => x.unit.toNat == 5) = true ∧
    up.afw.rollFrame ≤ (up.desc desc2).frame := by
  refine ⟨?_, ?_, ?_⟩ <;> decide +kernel

/-- RelayTraffic: the upstream beacon is heard without SAFE, and the relay is no orphan. -/
theorem witness_tracking : relay10.seq.orphan = false ∧ relay10.seq.safeUp = false := ⟨rfl, rfl⟩

/-- The clauses on STANDBY and on safe-hold: a device asleep, a relay that is up and asleep, an entry to STANDBY. -/
theorem witness_asleep : (powered (fun p => { p with state := .standby })).asleep = true ∧ up.asleep = false ∧
    (powered (fun p => { p with state := .standby })).served = false ∧ State.reset.served = false ∧ State.reset.asleep = false ∧
    up.served = true ∧ up.recovering = false ∧
    (let s := powered (fun p => { p with entering := true })
     s.pwr.entering = true ∧ s.pwr.past = false ∧ s.safe.on = false) := by
  refine ⟨?_, ?_, ?_, ?_, ?_, ?_, ?_, ?_, ?_, ?_⟩ <;> decide +kernel

/-- WakesAndBanks: a bank that drains, a call that waits for it, and a recovery run that goes on at the resumed service. -/
theorem witness_drains : (powered (fun p => { p with draining := [.ledger 7] })).drains 7 = true ∧ up.drains 7 = false ∧
    (let s := up (fun s => { s with pwr := { s.pwr with resuming := true },
                                    cal := { s.cal with run := some ⟨.recovery, [(.adc, false)], [], [], []⟩ } })
     s.recovering = true ∧ s.pwr.resuming = true) := by
  refine ⟨?_, ?_, ?_, ?_⟩ <;> decide +kernel

/-- BootSequence: load framing after the accepted Go frame. -/
theorem witness_loading :
    let s : State := { booting .released with boot := { (booting .released).boot with bootsel := true } }
    s.loading = true ∧ s.boot.stage ≠ .hostLoad ∧ ({} : CalMeas).clips = [] := by
  refine ⟨?_, ?_, ?_⟩ <;> decide +kernel

/-- OrderCommands: a relay without a descriptor, with and without a wake channel of the coordinator. -/
theorem witness_no_descriptor :
    (let s := { waking10 with afw := { waking10.afw with relayDesc := [], current := { waking10.afw.current with wch := some ⟨false, 128⟩ } } }
     s.descOf 0x10 = none ∧ s.afw.current.wch ≠ none ∧ s.relayReached 0x10 = true) ∧
    (let s := { waking10 with afw := { waking10.afw with relayDesc := [] } }
     s.descOf 0x10 = none ∧ s.afw.current.wch = none) := by
  refine ⟨⟨?_, ?_, ?_⟩, ?_, ?_⟩ <;> decide +kernel

/-- PlanAndRadioCommands: a staged plan whose channels fit the slots that it leads to, and one that does not; a test in
the slot of a relock. -/
theorem witness_effective_plan : (up.effectivePlan (planWith {} up.afw.staged)).aligned = true ∧
    (up.effectivePlan (planWith { bch := some ⟨false, 1⟩ } up.afw.staged)).aligned = false ∧
    (let s := { testing with clk := { testing.clk with rxHold := true } }
     s.clk.lock = true ∧ s.clk.rxHold = true ∧ s.seq.testState = true) := by
  refine ⟨?_, ?_, ?_, ?_, ?_⟩ <;> decide +kernel

/-- RunCommands: forced commands with an order outstanding, from Port A, and the time port off and on. -/
theorem witness_forced : (withOrder [try0 9600]).isRelay = false ∧ (withOrder [try0 9600]).afw.orders ≠ [] ∧
    (withOrder [try0 9600]).pwr.state ≠ .standby ∧ (withOrder [try0 9600]).curLine.port ≠ .s ∧
    ((withOrder [try0 9600]).modeBlock false {}).isSome = true ∧ bit up.timep.cfg 15 = false ∧
    bit (typing []).timep.cfg 15 = true := by
  refine ⟨?_, ?_, ?_, ?_, ?_, ?_, ?_⟩ <;> decide +kernel

/-- SystemCommands: a switch to a broadcast slot that has a key, and PEEK's banks at work. -/
theorem witness_switch : (up (fun s => { s with sram := { cells := [(keyAddr (bslotEntry true) + 7, 1)] } })).hasKey
      (bslotEntry (!up.aon.bslot)) = true ∧ up.hasKey (bslotEntry (!up.aon.bslot)) = false ∧ up.afw.built = [] ∧
    (∀ i, i < 60 → up.drains (bankOf (0x77FFC4 + i)) = false) ∧ held.interp.lines = [] := by
  refine ⟨?_, ?_, ?_, ?_, ?_⟩ <;> decide +kernel

/-- PortTraffic: a transfer under which a bank powered down. -/
theorem witness_lost_bank :
    let s : State := { up with portm := { up.portm with run := some (transfer 16), lost := [0], early := [5] } }
    s.portm.lost ≠ [] ∧ (transfer 16).txOff = false ∧ bankOf ((transfer 16).rx.toNat + 0) ∈ s.portm.lost := by
  refine ⟨?_, ?_, ?_⟩ <;> decide +kernel

/-- LinesAndEvents: a long operation whose final line has room, and one whose final line has none. -/
def ending (n : Nat) : State :=
  { fromS n with interp := { (fromS n).interp with long := some ⟨.calRun, ⟨.s, false, "", ""⟩, some "+OK", false⟩ } }

theorem witness_long_end : ((ending 0).lines .s).used + (ending 0).lineChars .s (tagged "" "+OK") ≤ 16224 ∧
    16224 < ((ending 16224).lines .s).used + (ending 16224).lineChars .s (tagged "" "+OK") ∧ (ending 0).interp.lines = [] := by
  have hu (n : Nat) : ((ending n).lines .s).used = n := fromS_used n
  have hc (n : Nat) : (ending n).lineChars .s (tagged "" "+OK") = (fromS 0).lineChars .s (tagged "" "+OK") := rfl
  rw [hu, hu, hc, hc]
  refine ⟨?_, ?_, ?_⟩ <;> decide +kernel

/-! ### The manual's worked examples -/

/-- 11, worked example: the words of the loss routine and of the summing sequence. -/
theorem test_facet_words :
    decodeFacet .a0 [0x2B14] = some (.fMpyu .a0 0 2 4) ∧ decodeFacet .a0 [0x2B5C] = some (.fMpyu .a0 1 3 4) ∧
    decodeFacet .a0 [0x2550] = some (.fMvi .a0 5 ⟨16, false⟩) ∧ decodeFacet .a0 [0x25B0] = some (.fMvi .a0 6 ⟨0xFFF0, false⟩) ∧
    decodeFacet .a0 [0x3795] = some (.fSha .a0 1 5) ∧ decodeFacet .a0 [0x37C9] = some (.fAdda .a0 0 1) ∧
    decodeFacet .a0 [0x36D3] = some (.fMva .a0 1 3) ∧ decodeFacet .a0 [0x3752] = some (.fAccu .a0 1 2) ∧
    decodeFacet .a0 [0x37DC] = some (.fSuba .a0 1 0) ∧ decodeFacet .a0 [0x3FC1] = some (.fRet .a0) ∧
    decodeFacet .a0 [0x37D1] = some (.fMvd .a0 1 1) ∧ decodeFacet .a0 [0x37CC] = some (.fSuba .a0 0 0) ∧
    decodeFacet .a0 [0x3888, 0x38CC, 0x3C12] = some (.fMvp .a0 1 0x220CC2 2) ∧
    decodeFacet .a0 [0x111F] = some (.fLd .a0 2 (.modify 1 7)) ∧
    decodeFacet .a0 [0x3800, 0x0996] = some (.fClt .a0 9 (some 0) 6) := by
  refine ⟨?_, ?_, ?_, ?_, ?_, ?_, ?_, ?_, ?_, ?_, ?_, ?_, ?_, ?_, ?_⟩ <;> decide +kernel

/-- 11, worked example: the routine's result for segment 25 is N = 28,018. -/
theorem test_loss_routine : after .a0 (fun k => (k.accum 1, k.accum 0))
    [.fMpyu .a0 0 2 4, .fMpyu .a0 1 3 4, .fMvi .a0 5 ⟨16, false⟩, .fSha .a0 1 5, .fMvi .a0 6 ⟨0xFFF0, false⟩, .fAdda .a0 0 1,
      .fMva .a0 1 3, .fSha .a0 0 6, .fAccu .a0 1 2, .fSuba .a0 1 0]
    (live .a0 [0, 0, 0x7040, 0, 0x0666] (fun k => { k with cst := 0xC000 })) = some (28018, 718) := by decide +kernel

/-- 04, worked example: the nonces, the hop index and the check byte of unit 0x1F40 in district 0x5A3. -/
theorem test_field_link_example :
    nonceBytes 3 0x5A3 0x1F40 0 0xA0F7 4 0 0 0 = [0x35, 0xA3, 0x1F, 0x40, 0, 0, 0, 0, 0xA0, 0xF7, 0x80, 0, 0] ∧
    nonceBytes 0xA 0x5A3 0x1F40 0 0xA0FB 3 0 2 0x2A17 = [0xA5, 0xA3, 0x1F, 0x40, 0, 0, 0, 0, 0xA0, 0xFB, 0x62, 0x2A, 0x17] ∧
    hopIndex 0x1F40 0xA0F7 1 0x5A3 128 = 71 ∧ ackCheckByte 0x5A3 0 = 0x60 := by
  refine ⟨?_, ?_, ?_, ?_⟩ <;> decide +kernel

/-- 08, worked example: the targets of the five outlets of segment 25 for N = 28,018. -/
theorem test_apportionment_example :
    (shareOut 28018 [⟨false, 0x20CC, 0x4000, 0, 7680, 0⟩, ⟨false, 0x20CD, 0x3000, 1280, 10240, 0⟩,
      ⟨false, 0x20CE, 0x3000, 0, 5120, 0⟩, ⟨false, 0x20CF, 0x2000, 2560, 6400, 0⟩, ⟨false, 0x20D0, 0x2000, 0, 0, 0⟩]).map (·.2) =
      [7680, 8818, 5120, 6400, 0] := by decide +kernel

/-- 07, worked example: the first beacon has 31 bytes, 180 symbols and 180 Ticks; a cold start fills 2,400 Ticks a frame
and leaves the budget that fits it. -/
theorem test_first_beacon_example :
    let r : Range := ⟨4500000, 4532000, 80, true, 250, 600, -380, 5000, 1000⟩
    let g : Gate := { filled := true, coldC := 0, used := [] }
    packetTicks 1 31 false = 180 ∧ dutyFill r = 2400 ∧ g.budget r 0 1 = 2400 ∧
      (g.charge 0 1 180).budget r 0 1 = 2220 := by
  refine ⟨?_, ?_, ?_, ?_⟩ <;> decide +kernel

/-- 02, worked example: slot 3's clear-channel window opens at Tick 3,533 and its commit point is at Tick 3,581. -/
theorem test_slot_times : State.reset.seq.beforeSlot 3 67 = 3533 ∧ State.reset.seq.beforeSlot 3 19 = 3581 := by decide

/-- 18, worked example: element 17 at 31 moves one step a frame towards 36. -/
theorem test_calibration_step :
    elemGet ({ State.reset.cal with app := [(17, 31)], tgt := [(17, 36)] } : Cal).stepApplied.app 17 = 32 := by decide +kernel

/-- R16: CLKOUT with DIV 3,841 is ignored. -/
theorem test_clkout_ignored : exec (.clkOutcfgWrite 0x8F01) State.reset = .next State.reset := rfl

/-- R433: a write to a read-only address changes nothing. -/
theorem test_read_only : exec (.registerWrite .a0 0x000 0xFFFF) State.reset = .next State.reset := rfl

end Sys2Proof.Tests
end

section
/-! The Facet instructions that shift, divide and multiply (R229 to R231, R253 to R255): what narrowing and rounding
give, what a result in an accumulator comes to, and the statements O4, O5 and O6. -/

namespace Sys2Proof.Machine

open Sys2Proof

/-! ### Words as numbers -/

theorem word_toInt_bounds (x : Word) : -32768 ≤ x.toInt ∧ x.toInt ≤ 32767 := by
  have := x.le_toInt
  have := x.toInt_lt
  omega

theorem word_toInt_ne_zero {b : Word} (hb : b ≠ 0) : b.toInt ≠ 0 := fun e => hb (BitVec.toInt_inj.1 e)

theorem word_toNat_pos {b : Word} (hb : b ≠ 0) : 0 < b.toNat :=
  Nat.pos_of_ne_zero fun e => hb (BitVec.eq_of_toNat_eq e)

/-! ### Exact values in a signed destination (R230) -/

theorem ofInt_intMax (w : Nat) : BitVec.ofInt w (2 ^ (w - 1) - 1) = BitVec.intMax w := by
  rw [← BitVec.toInt_intMax, BitVec.ofInt_toInt]

theorem ofInt_intMin {w : Nat} (hw : 0 < w) : BitVec.ofInt w (-2 ^ (w - 1)) = BitVec.intMin w := by
  have h : (BitVec.intMin w).toInt = -2 ^ (w - 1) := by
    rw [BitVec.toInt_intMin, Nat.mod_eq_of_lt (Nat.pow_lt_pow_right (by decide) (by omega))]
    simp
  rw [← h, BitVec.ofInt_toInt]

theorem narrowS_of_fits {w : Nat} {e : Int} (sat : Bool) (hlo : -2 ^ (w - 1) ≤ e) (hhi : e < 2 ^ (w - 1)) :
    narrowS w sat e = plain (BitVec.ofInt w e) :=
  (if_neg (by omega)).trans (if_neg (by omega))

theorem narrowS_above {w : Nat} {e : Int} (sat : Bool) (h : 2 ^ (w - 1) ≤ e) :
    narrowS w sat e = ⟨if sat then BitVec.intMax w else BitVec.ofInt w e, true, false⟩ := by
  rw [← ofInt_intMax]
  exact if_pos (by omega)

theorem narrowS_below {w : Nat} {e : Int} (hw : 0 < w) (sat : Bool) (h : e < -2 ^ (w - 1)) :
    narrowS w sat e = ⟨if sat then BitVec.intMin w else BitVec.ofInt w e, true, false⟩ := by
  have hp : (0 : Int) < 2 ^ (w - 1) := by positivity
  rw [← ofInt_intMin hw]
  exact (if_neg (by omega)).trans (if_pos h)

/-- Narrowing an exact value gives what R230 asks of it, and never DZ. -/
theorem narrowS_signedResult {w : Nat} (hw : 0 < w) (sat : Bool) (e : Int) :
    SignedResult w sat e (narrowS w sat e).val (narrowS w sat e).ov ∧ (narrowS w sat e).dz = false := by
  have hp : (0 : Int) < 2 ^ (w - 1) := by positivity
  unfold SignedResult
  rcases lt_or_ge e (-2 ^ (w - 1)) with hlo | hlo
  · rw [narrowS_below hw sat hlo, if_neg (by omega), if_neg (by omega : ¬ 0 < e)]
    exact ⟨⟨rfl, rfl⟩, rfl⟩
  · rcases lt_or_ge e (2 ^ (w - 1)) with hhi | hhi
    · rw [narrowS_of_fits sat hlo hhi, if_pos ⟨hlo, hhi⟩]
      exact ⟨⟨BitVec.toInt_ofInt_eq_self hw hlo hhi, rfl⟩, rfl⟩
    · rw [narrowS_above sat hhi, if_neg (by omega), if_pos (by omega : 0 < e)]
      exact ⟨⟨rfl, rfl⟩, rfl⟩

/-! ### Rounding (R231) -/

theorem fdiv_remainder (n : Int) {d : Nat} (hd : 0 < d) :
    0 ≤ n - n.fdiv d * d ∧ n - n.fdiv d * d < d := by
  have hpos : (0 : Int) < d := by exact_mod_cast hd
  rw [mul_comm, ← Int.fmod_def]
  exact ⟨Int.fmod_nonneg_of_pos _ hpos, Int.fmod_lt_of_pos _ hpos⟩

/-- R231 in terms of the product p = q · d alone, which is linear. -/
theorem rounds_iff (rnd : Rnd) (n : Int) (d : Nat) (q p : Int) (hp : q * d = p) :
    Rounds rnd n d q ↔
      if rnd = 1 then 2 * p ≤ 2 * n + d ∧ 2 * n < 2 * p + d
      else if rnd = 2 then
        2 * (n - p) ≤ d ∧ -(d : Int) ≤ 2 * (n - p) ∧ ((2 * (n - p)).natAbs = d → q % 2 = 0)
      else p ≤ n ∧ n < p + d := by
  subst hp
  have h2 : 2 * q * (d : Int) = 2 * (q * d) := by ring
  have h3 : 2 * (q + 1) * (d : Int) = 2 * (q * d) + 2 * d := by ring
  have h4 : (q + 1) * (d : Int) = q * d + d := by ring
  unfold Rounds
  rw [h2, h3, h4]
  split
  · omega
  · rfl

theorem roundDiv_rounds (rnd : Rnd) (n : Int) {d : Nat} (hd : 0 < d) : Rounds rnd n d (roundDiv rnd n d) := by
  obtain ⟨hr0, hrd⟩ := fdiv_remainder n hd
  have stay := rounds_iff rnd n d (n.fdiv d) _ rfl
  have up := rounds_iff rnd n d (n.fdiv d + 1) (n.fdiv d * d + d) (by ring)
  unfold roundDiv
  simp only
  split
  case isTrue half =>
    rw [if_pos half] at stay up
    split
    · exact up.2 (by omega)
    · exact stay.2 (by omega)
  case isFalse notHalf =>
    rw [if_neg notHalf] at stay up
    split
    case isTrue conv =>
      rw [if_pos conv] at stay up
      split
      · exact up.2 (by omega)
      · split
        · exact up.2 (by omega)
        · exact stay.2 (by omega)
    case isFalse notConv =>
      rw [if_neg notConv] at stay
      exact stay.2 (by omega)

/-- A rounded quotient is less than one unit off. -/
theorem Rounds.near {rnd : Rnd} {n : Int} {d : Nat} {q : Int} (hd : 0 < d) (h : Rounds rnd n d q) :
    (q - 1) * d < n ∧ n < (q + 1) * d := by
  have hlo : (q - 1) * (d : Int) = q * d - d := by ring
  have hhi : (q + 1) * (d : Int) = q * d + d := by ring
  rw [hlo, hhi]
  rw [rounds_iff rnd n d q _ rfl] at h
  split at h
  · omega
  · split at h <;> omega

theorem Rounds.le_of_lt_mul {rnd : Rnd} {n : Int} {d : Nat} {q hi : Int} (hd : 0 < d) (h : Rounds rnd n d q)
    (hn : n ≤ hi * d) : q ≤ hi := by
  have := lt_of_mul_lt_mul_right ((h.near hd).1.trans_le hn) (by positivity)
  omega

theorem Rounds.le_of_mul_le {rnd : Rnd} {n : Int} {d : Nat} {q lo : Int} (hd : 0 < d) (h : Rounds rnd n d q)
    (hn : lo * d ≤ n) : lo ≤ q := by
  have := lt_of_mul_lt_mul_right (hn.trans_lt (h.near hd).2) (by positivity)
  omega

/-- Rounding moves no quotient of n past n itself. -/
theorem Rounds.between {rnd : Rnd} {n : Int} {d : Nat} {q lo hi : Int} (hd : 0 < d) (h : Rounds rnd n d q)
    (hlo : lo ≤ 0) (hhi : 0 ≤ hi) (hln : lo ≤ n) (hnh : n ≤ hi) : lo ≤ q ∧ q ≤ hi := by
  have h1 : (1 : Int) ≤ d := by exact_mod_cast hd
  exact ⟨h.le_of_mul_le hd ((mul_le_of_one_le_right hlo h1).trans hln),
    h.le_of_lt_mul hd (hnh.trans (le_mul_of_one_le_right hhi h1))⟩

theorem Rounds.eq_of_div_one {rnd : Rnd} {n q : Int} (h : Rounds rnd n 1 q) : q = n := by
  have := h.near one_pos
  omega

/-- A word divided by a positive number and rounded fits the word again. -/
theorem ofInt_roundDiv_rounds {w : Nat} (hw : 0 < w) (rnd : Rnd) (a : BitVec w) {d : Nat} (hd : 0 < d) :
    Rounds rnd a.toInt d (BitVec.ofInt w (roundDiv rnd a.toInt d)).toInt := by
  have hp : (0 : Int) < 2 ^ (w - 1) := by positivity
  have hr := roundDiv_rounds rnd a.toInt hd
  obtain ⟨hlo, hhi⟩ := hr.between (lo := -2 ^ (w - 1)) (hi := 2 ^ (w - 1) - 1) hd (by omega) (by omega) a.le_toInt
    (Int.le_sub_one_of_lt a.toInt_lt)
  rwa [BitVec.toInt_ofInt_eq_self hw hlo (by omega)]

/-! ### Writes of an accumulator (R235, R257) -/

/-- A result in ACu and the sticky bits, after an instruction of one word on a ready core: both writes are still hidden
from the next instruction (R235). -/
theorem Core.putAc_retire (k : Core) (u : BitVec 2) (r : Narrow 40) (hq : k.pending = []) :
    let m := bitWord 1 r.ov ||| bitWord 0 r.dz
    (k.putAc u r).retire 1 none none =
      { k with cst := k.cst ||| m, pc := k.pc + 1,
               pending := ⟨1, .ac u, r.val⟩ ::
                 if m &&& ~~~k.cst = 0 then [] else [⟨1, .sticky, (m &&& ~~~k.cst).setWidth 40⟩] } := by
  intro m
  by_cases hn : m &&& ~~~k.cst = 0
  · have hn' : (bitWord 1 r.ov ||| bitWord 0 r.dz) &&& ~~~k.cst = 0#16 := hn
    simp [Core.putAc, Core.stick, Core.delay, hn, hn', Core.retire, Core.age, hq, sticky_none hn]
  · have hn' : ¬ (bitWord 1 r.ov ||| bitWord 0 r.dz) &&& ~~~k.cst = 0#16 := hn
    simp [Core.putAc, Core.stick, hn', Core.retire, Core.age, Core.delay, hq, m]

theorem Core.accum_of_none_pending {k : Core} (hq : k.pending = []) (m : BitVec 2) : k.accum m = k.rac m := by
  simp [Core.accum, Core.newest, hq]

theorem Core.rac_setAc (k : Core) (u m : BitVec 2) (v : Acc) : (k.setAc u v).rac m = if m = u then v else k.rac m := by
  by_cases h : m = u
  · subst h
    simp [Core.setAc, Core.rac, Vector.get_eq_getElem]
  · have hne : u.toNat ≠ m.toNat := fun e => h (BitVec.eq_of_toNat_eq e.symm)
    simp only [Core.setAc, h, if_false, Core.rac, Vector.get_eq_getElem]
    exact Vector.getElem_set_ne _ _ hne

/-- A result in ACu on a ready core, as the machine stands after the instruction. -/
theorem wroteAc_putAc {s : State} {c : CoreId} (u : BitVec 2) (r : Narrow 40) (h : s.ready c 1) (hz : r.dz = false) :
    WroteAc s (s.setCore c (((s.core c).putAc u r).retire 1 none none)) c u r.val r.ov := by
  obtain ⟨⟨_, _, _, hq⟩, _⟩ := h
  rw [Core.putAc_retire _ _ _ hq, hz]
  unfold WroteAc OnlyCore
  rw [State.core_setCore]
  refine ⟨rfl, ?_, fun _ => rfl, ?_, ?_, rfl, ?_, rfl⟩
  · split <;> simp [Core.accum, Core.newest]
  · intro m hm
    have hne : ¬ u = m := fun e => hm e.symm
    split <;> simp [Core.accum, Core.newest, Core.rac, hne]
  · intro m
    rw [← Core.rac_setAc]
    split <;> simp [Core.age, Core.commitOne, Core.rac, Core.setAc]
  · simp [bitWord]

/-! ### Instructions that act on a ready core -/

section Completes

variable {s : State} {c : CoreId} {i : Instr}

/-- An instruction that can be given and puts the result f in Gd completes on a ready core. -/
theorem completes_putG {n : Nat} {d : BitVec 4} (f : Core → Narrow 16)
    (he : exec i s = encodable i (s.alu c n (fun k => k.putG d (f k)))) (hi : i.wf = true) (h : s.ready c n) :
    ∃ t, exec i s = .next t ∧ WroteG s t c n d (f (s.core c)).val (f (s.core c)).ov (f (s.core c)).dz :=
  ⟨_, he.trans ((if_pos hi).trans (State.alu_ready _ h)), wroteG_putG d _ h⟩

/-- An instruction that can be given and puts the result f in ACu completes on a ready core. -/
theorem completes_putAc {u : BitVec 2} (f : Core → Narrow 40)
    (he : exec i s = encodable i (s.alu c 1 (fun k => k.putAc u (f k)))) (hi : i.wf = true) (h : s.ready c 1)
    (hz : (f (s.core c)).dz = false) :
    ∃ t, exec i s = .next t ∧ WroteAc s t c u (f (s.core c)).val (f (s.core c)).ov :=
  ⟨_, he.trans ((if_pos hi).trans (State.alu_ready _ h)), wroteAc_putAc u _ h hz⟩

end Completes

/-! ### Shifts (R253) -/

theorem shiftLogical_toNat (a : Word) (s : Int) :
    (shiftLogical a s).toNat =
      if 16 ≤ s.natAbs then 0 else if 0 ≤ s then a.toNat * 2 ^ s.toNat % 65536 else a.toNat / 2 ^ s.natAbs := by
  unfold shiftLogical
  split
  case isTrue far => rw [if_pos (by omega)]; rfl
  case isFalse near =>
    split
    case isTrue left => rw [if_neg (by omega), BitVec.toNat_shiftLeft, Nat.shiftLeft_eq]
    case isFalse right =>
      split
      · rw [if_neg (by omega), BitVec.toNat_ushiftRight, Nat.shiftRight_eq_div_pow]
      · rw [if_pos (by omega)]; rfl

section Arithmetic

variable {w : Nat} (sat : Bool) (rnd : Rnd) (a : BitVec w) {s : Int}

theorem shiftArith_left (hs : 0 ≤ s) : shiftArith w sat rnd a s = narrowS w sat (a.toInt * 2 ^ s.toNat) := if_pos hs

theorem shiftArith_right (hs : s < 0) (hw : -(w : Int) < s) :
    shiftArith w sat rnd a s = plain (BitVec.ofInt w (roundDiv rnd a.toInt (2 ^ s.natAbs))) :=
  (if_neg (by omega)).trans (if_pos hw)

theorem shiftArith_far (hw : 0 < w) (hs : s ≤ -(w : Int)) :
    shiftArith w sat rnd a s = plain (if a.toInt < 0 then BitVec.allOnes w else 0) := by
  have hones : BitVec.ofInt w (-1) = BitVec.allOnes w := by
    rw [BitVec.ofInt_neg, BitVec.ofInt_ofNat, BitVec.neg_one_eq_allOnes]
  rw [shiftArith, if_neg (by omega), if_neg (by omega), hones]

theorem shiftArith_left_result (hw : 0 < w) (hs : 0 ≤ s) :
    SignedResult w sat (a.toInt * 2 ^ s.toNat) (shiftArith w sat rnd a s).val (shiftArith w sat rnd a s).ov := by
  rw [shiftArith_left sat rnd a hs]
  exact (narrowS_signedResult hw _ _).1

theorem shiftArith_right_result (hs : s < 0) (hw : -(w : Int) < s) :
    (shiftArith w sat rnd a s).ov = false ∧
      Rounds rnd a.toInt (2 ^ s.natAbs) (shiftArith w sat rnd a s).val.toInt := by
  rw [shiftArith_right sat rnd a hs hw]
  exact ⟨rfl, ofInt_roundDiv_rounds (by omega) rnd a (by positivity)⟩

theorem shiftArith_dz (hw : 0 < w) : (shiftArith w sat rnd a s).dz = false := by
  unfold shiftArith
  split
  · exact (narrowS_signedResult hw _ _).2
  · split <;> rfl

end Arithmetic

/-- Two instructions that shift A by the low byte of B, one logically and one arithmetically, obey R253 on a ready
core. -/
theorem shiftLaws_of_exec {s : State} {c : CoreId} {n : Nat} {d : BitVec 4} {lsh ash : Instr} (A B : Core → Word)
    (hl : exec lsh s = encodable lsh (s.alu c n (fun k => k.putG d (plain (shiftLogical (A k) (shiftAmount (B k)))))))
    (ha : exec ash s =
      encodable ash (s.alu c n (fun k => k.putG d (shiftArith 16 k.sat k.rnd (A k) (shiftAmount (B k))))))
    (hlw : lsh.wf = true) (haw : ash.wf = true) (h : s.ready c n) :
    ShiftLaws s c n d (A (s.core c)) (B (s.core c)) lsh ash := by
  constructor
  · obtain ⟨t, ht, hw⟩ := completes_putG _ hl hlw h
    exact ⟨t, _, ht, hw, shiftLogical_toNat _ _⟩
  · obtain ⟨t, ht, hw⟩ := completes_putG _ ha haw h
    rw [shiftArith_dz _ _ _ (by decide)] at hw
    refine ⟨t, _, _, ht, hw, fun left => ?_, fun right near => ?_, fun far => ?_⟩
    · exact shiftArith_left_result _ _ _ (by decide) left
    · exact shiftArith_right_result _ _ _ right near
    · rw [shiftAmount, shiftArith_far _ _ _ (by decide) far]
      exact ⟨rfl, rfl⟩

/-- Settles O4: register and immediate forms shift alike, so one law covers both. -/
theorem facetShifts : Obligations.FacetShifts := by
  intro s c d b a k n
  constructor
  · intro hwf h
    exact shiftLaws_of_exec (fun k => k.rg (a.getD d)) (fun k => k.rg b) rfl rfl hwf hwf h
  · intro i hd hi h
    have hwf : (okLow d && okShi i) = true := by simp [hd, hi]
    exact shiftLaws_of_exec (fun k => k.rg d) (fun _ => i.v) rfl rfl hwf hwf h

/-! ### Division (R254) -/

/-- A divisor's sign can be carried by the dividend. -/
theorem roundQuot_eq_roundDiv (rnd : Rnd) (n : Int) {d : Int} (hd : d ≠ 0) :
    roundQuot rnd n d = roundDiv rnd (n * d.sign) d.natAbs := by
  unfold roundQuot
  split
  case isTrue neg => rw [Int.sign_eq_neg_one_of_neg neg, mul_neg_one]
  case isFalse nonneg => rw [Int.sign_eq_one_of_pos (by omega), mul_one]

theorem divSigned_zero (sat : Bool) (rnd : Rnd) (a : Word) :
    divSigned sat rnd a 0 = ⟨if 0 < a.toInt then 0x7FFF else if a.toInt < 0 then 0x8000 else 0, false, true⟩ := rfl

/-- The one quotient of two words that does not fit: 0x8000 / 0xFFFF is 32,768 under every rounding (R230). -/
theorem divSigned_overflow (sat : Bool) (rnd : Rnd) :
    divSigned sat rnd 0x8000 0xFFFF = ⟨if sat then 0x7FFF else 0x8000, true, false⟩ := by
  have hq : roundQuot rnd (-32768) (-1) = 32768 := (roundDiv_rounds rnd 32768 one_pos).eq_of_div_one
  have hd : divSigned sat rnd 0x8000 0xFFFF = narrowS 16 sat (roundQuot rnd (-32768) (-1)) := rfl
  rw [hd, hq, narrowS_above sat (by decide)]
  cases sat <;> rfl

/-- A dividend with the divisor's sign reaches 32,768 at most, and 32,768 / 1 only as 0x8000 / 0xFFFF. -/
theorem signed_dividend_bounds {a b : Word} (hb : b ≠ 0) (hov : ¬ (a = 0x8000 ∧ b = 0xFFFF)) :
    -32768 * (b.toInt.natAbs : Int) ≤ a.toInt * b.toInt.sign ∧
      a.toInt * b.toInt.sign ≤ 32767 * (b.toInt.natAbs : Int) := by
  have ha := word_toInt_bounds a
  have hb0 := word_toInt_ne_zero hb
  have hne : ¬ (a.toInt = -32768 ∧ b.toInt = -1) := fun ⟨ha, hb⟩ =>
    hov ⟨BitVec.toInt_inj.1 ha, BitVec.toInt_inj.1 hb⟩
  rcases lt_or_gt_of_ne hb0 with neg | pos
  · rw [Int.sign_eq_neg_one_of_neg neg]
    omega
  · rw [Int.sign_eq_one_of_pos pos]
    omega

theorem divSigned_fits (sat : Bool) (rnd : Rnd) {a b : Word} (hb : b ≠ 0) (hov : ¬ (a = 0x8000 ∧ b = 0xFFFF)) :
    ∃ v, divSigned sat rnd a b = plain v ∧ Rounds rnd (a.toInt * b.toInt.sign) b.toInt.natAbs v.toInt := by
  have hb0 := word_toInt_ne_zero hb
  have hpos : 0 < b.toInt.natAbs := Int.natAbs_pos.2 hb0
  obtain ⟨hlo, hhi⟩ := signed_dividend_bounds hb hov
  have hr := roundDiv_rounds rnd (a.toInt * b.toInt.sign) hpos
  have hqlo := hr.le_of_mul_le hpos hlo
  have hqhi := hr.le_of_lt_mul hpos hhi
  refine ⟨BitVec.ofInt 16 (roundQuot rnd a.toInt b.toInt), ?_, ?_⟩
  · rw [divSigned, if_neg hb, roundQuot_eq_roundDiv rnd _ hb0]
    exact narrowS_of_fits sat hqlo (by omega)
  · rwa [roundQuot_eq_roundDiv rnd _ hb0, BitVec.toInt_ofInt_eq_self (by decide) hqlo (by omega)]

/-- Convergent rounding of a quotient of naturals is rnd of R185. -/
theorem roundDiv_convergent_natCast (n d : Nat) : roundDiv 2 n d = rnd185 n d := by
  have hq : (n : Int).fdiv d = (n / d : Nat) := (Int.ofNat_fdiv ..).symm
  have hle : n / d * d ≤ n := Nat.div_mul_le_self n d
  have hr : (n : Int) - (n / d : Nat) * d = (n - n / d * d : Nat) := by rw [Nat.cast_sub hle, Nat.cast_mul]
  simp only [roundDiv, rnd185, hq, hr, if_true]
  rw [if_neg (by decide)]
  generalize n / d = q, n - n / d * d = r
  split_ifs <;> omega

theorem divUnsigned_zero (rnd : Rnd) (a : Word) :
    divUnsigned rnd a 0 = ⟨if a = 0 then 0 else 0x7FFF, false, true⟩ := rfl

theorem divUnsigned_fits (rnd : Rnd) (a : Word) {b : Word} (hb : b ≠ 0) :
    ∃ v : Word, divUnsigned rnd a b = plain v ∧ (v.toNat : Int) = roundDiv rnd a.toNat b.toNat := by
  have hpos := word_toNat_pos hb
  obtain ⟨hlo, hhi⟩ := (roundDiv_rounds rnd a.toNat hpos).between (lo := 0) (hi := 65535) hpos (by omega) (by omega)
    (by omega) (by omega)
  refine ⟨_, if_neg hb, ?_⟩
  rw [BitVec.toNat_ofInt]
  omega

/-- Settles O5: a zero divisor and 0x8000 / 0xFFFF have their fixed results, and every other rounded quotient fits. -/
theorem facetDivision : Obligations.FacetDivision := by
  intro s c d b a k n A B hwf h
  constructor
  · obtain ⟨t, ht, hw⟩ : ∃ t, exec (.fDiv c d a b) s = .next t ∧ WroteG s t c n d (divSigned k.sat k.rnd A B).val
        (divSigned k.sat k.rnd A B).ov (divSigned k.sat k.rnd A B).dz :=
      completes_putG (fun k => divSigned k.sat k.rnd (k.rg (a.getD d)) (k.rg b)) rfl hwf h
    by_cases hB : B = 0
    · rw [hB, divSigned_zero] at hw
      exact ⟨t, _, _, _, ht, hw, fun _ => ⟨rfl, rfl, rfl⟩, fun nonzero => absurd hB nonzero⟩
    · by_cases hov : A = 0x8000 ∧ B = 0xFFFF
      · rw [hov.1, hov.2, divSigned_overflow] at hw
        exact ⟨t, _, _, _, ht, hw, fun zero => absurd zero hB,
          fun _ => ⟨rfl, (decide_eq_true hov).symm, fun _ => rfl, nofun⟩⟩
      · obtain ⟨v, hv, hr⟩ := divSigned_fits k.sat k.rnd hB hov
        rw [hv] at hw
        exact ⟨t, _, _, _, ht, hw, fun zero => absurd zero hB,
          fun _ => ⟨rfl, (decide_eq_false hov).symm, nofun, fun _ => hr⟩⟩
  · obtain ⟨t, ht, hw⟩ : ∃ t, exec (.fDivu c d a b) s = .next t ∧ WroteG s t c n d (divUnsigned k.rnd A B).val
        (divUnsigned k.rnd A B).ov (divUnsigned k.rnd A B).dz :=
      completes_putG (fun k => divUnsigned k.rnd (k.rg (a.getD d)) (k.rg b)) rfl hwf h
    by_cases hB : B = 0
    · rw [hB, divUnsigned_zero] at hw
      exact ⟨t, _, _, ht, hw, fun _ => ⟨rfl, rfl⟩, fun nonzero => absurd hB nonzero⟩
    · obtain ⟨v, hv, hr⟩ := divUnsigned_fits k.rnd A hB
      rw [hv] at hw
      refine ⟨t, _, _, ht, hw, fun zero => absurd zero hB, fun _ => ⟨rfl, ?_, fun conv => ?_⟩⟩
      · exact hr ▸ roundDiv_rounds k.rnd A.toNat (word_toNat_pos hB)
      · rw [conv, roundDiv_convergent_natCast] at hr
        exact_mod_cast hr

/-! ### Products (R229) -/

/-- A product of two signed words is at most 2^30 in size, so 40 bits hold it and its double (R229). -/
theorem word_mul_bounds (x y : Word) : |x.toInt * y.toInt| ≤ 2 ^ 30 := by
  have hx : |x.toInt| ≤ 32768 := abs_le.2 (by have := word_toInt_bounds x; omega)
  have hy : |y.toInt| ≤ 32768 := abs_le.2 (by have := word_toInt_bounds y; omega)
  calc |x.toInt * y.toInt| = |x.toInt| * |y.toInt| := abs_mul ..
    _ ≤ 32768 * 32768 := mul_le_mul hx hy (abs_nonneg _) (by decide)
    _ = 2 ^ 30 := by norm_num

theorem intProduct_toInt (x y : Word) : (intProduct x y).toInt = x.toInt * y.toInt := by
  have := abs_le.1 (word_mul_bounds x y)
  exact BitVec.toInt_ofInt_eq_self (by decide) (by omega) (by omega)

theorem fracProduct_toInt (x y : Word) : (fracProduct x y).toInt = 2 * (x.toInt * y.toInt) := by
  have := abs_le.1 (word_mul_bounds x y)
  rw [mul_comm 2]
  exact BitVec.toInt_ofInt_eq_self (by decide) (by omega) (by omega)

theorem uintProduct_toNat (x y : Word) : (uintProduct x y).toNat = x.toNat * y.toNat := by
  have : x.toNat * y.toNat ≤ 65535 * 65535 := Nat.mul_le_mul (by omega) (by omega)
  exact (BitVec.toNat_ofNat ..).trans (Nat.mod_eq_of_lt (by omega))

/-- Settles O6: each product fits its 40 bits, and MAC narrows the exact sum. -/
theorem facetProducts : Obligations.FacetProducts := by
  intro s c u x y k X Y hu hx hy h
  have hwf : (okAc c u && okMul c x && okMul c y) = true := by simp [hu, hx, hy]
  refine ⟨?mpy, ?mpyi, ?mpyu, ?mac⟩
  case mpy =>
    obtain ⟨t, ht, hw⟩ := completes_putAc (i := .fMpy c u x y)
      (fun k => plain (fracProduct (k.rg x) (k.rg y))) rfl hwf h rfl
    exact ⟨t, _, ht, hw, fracProduct_toInt _ _⟩
  case mpyi =>
    obtain ⟨t, ht, hw⟩ := completes_putAc (i := .fMpyi c u x y)
      (fun k => plain (intProduct (k.rg x) (k.rg y))) rfl hwf h rfl
    exact ⟨t, _, ht, hw, intProduct_toInt _ _⟩
  case mpyu =>
    obtain ⟨t, ht, hw⟩ := completes_putAc (i := .fMpyu c u x y)
      (fun k => plain (uintProduct (k.rg x) (k.rg y))) rfl hwf h rfl
    exact ⟨t, _, ht, hw, uintProduct_toNat _ _⟩
  case mac =>
    have hsum := narrowS_signedResult (w := 40) (by decide) k.sat
      ((k.accum u).toInt + (fracProduct (k.rg x) (k.rg y)).toInt)
    obtain ⟨t, ht, hw⟩ := completes_putAc (i := .fMac c u x y)
      (fun k => accAdd k.sat (k.accum u) (fracProduct (k.rg x) (k.rg y)).toInt) rfl hwf h hsum.2
    obtain ⟨⟨_, _, _, hq⟩, _⟩ := h
    refine ⟨t, _, _, ht, hw, ?_⟩
    rw [← fracProduct_toInt, ← Core.accum_of_none_pending hq]
    exact hsum.1

end Sys2Proof.Machine
end
